-- ==== Sys2Proof/Word.lean ====
section
/-! DEFINITION. The value types of 10_state.md rule R20: bytes, words, byte sequences, type codes
and chunk records. -/

namespace Sys2Proof

/-- A byte: 8 bits, unsigned (R9). -/
abbrev Byte := BitVec 8

/-- A word: 32 bits, unsigned (R9). -/
abbrev Word := BitVec 32

/-- A command word: 40 bits (R80). -/
abbrev CmdWord := BitVec 40

/-- A finite sequence of bytes, indexed from 0 (R10). -/
abbrev Bytes := List Byte

/-- Four bytes in wire order: `b0` is the first byte on the wire (R22). That each is an ASCII letter
is the predicate `Machine.TypeOk` (R34 c), kept by every step. -/
structure TypeCode where
  b0 : Byte
  b1 : Byte
  b2 : Byte
  b3 : Byte
  deriving DecidableEq, Repr

/-- One chunk (R20, R23). The relations between the fields are the chunk invariant R34,
`Machine.ChunkOk`. -/
structure ChunkRec where
  length : Word
  type : TypeCode
  data : Bytes
  crc : Word
  deriving DecidableEq, Repr

end Sys2Proof
end

