-- ==== Sys2Proof/Machine/Constants.lean ====
section
/-! DEFINITION. The constants the source fixes (00_scope.md rule R6). -/

namespace Sys2Proof.Machine

/-- POLY: the CRC-32 polynomial in reflected form. -/
def poly : Word := 0xEDB88320

/-- CRC_INIT -/
def crcInit : Word := 0xFFFFFFFF

/-- CRC_XOROUT -/
def crcXorOut : Word := 0xFFFFFFFF

/-- SIG: the container signature, 137 80 78 71 13 10 26 10 (R6, R87). -/
def sig : Bytes := [137, 80, 78, 71, 13, 10, 26, 10]

/-- SIG_LEN -/
def sigLen : Nat := 8

/-- MAX_LEN = 2^31 - 1 -/
def maxLen : Nat := 0x7FFFFFFF

/-- TYPE_LEN -/
def typeLen : Nat := 4

/-- FRAME_OVERHEAD: 4 bytes of length, 4 of type, 4 of CRC. -/
def frameOverhead : Nat := 12

end Sys2Proof.Machine
end

