-- ==== Sys2Proof/Config.lean ====
section
/-! DEFINITION. The four parameters of 00_scope.md rule R7, which the spec leaves open. -/

namespace Sys2Proof

/-- The three capacities (R7, D6); `none` is "unbounded". They are parameters, not state of the block
(R36): every command that tests one takes them as an argument. -/
structure Caps where
  /-- CAP_BUF: bytes IBUF and OBUF hold, each. -/
  buf : Option Nat
  /-- CAP_CHUNKS: the most chunks CLIST holds. -/
  chunks : Nat
  /-- CAP_STORE: the most payload bytes CLIST holds in total. -/
  store : Option Nat
  deriving DecidableEq, Repr

/-- The setting R7 names for the source's own semantics: CAP_BUF and CAP_STORE unbounded and
CAP_CHUNKS = 2^32 - 1; 95_test_vectors.md runs its programs with it. -/
def Caps.unbounded : Caps := ⟨none, 2 ^ 32 - 1, none⟩

/-- DESCRIBE_FMT (R7, R202, D23): a total function of SIG and of each chunk's type, length and crc in
list order, about which nothing else is known. It has no body, so nothing can be proved of its text
(log entry 3, safe). -/
opaque Config.describeFmt : Bytes → List (TypeCode × Word × Word) → Bytes

end Sys2Proof
end

