-- ==== Sys2Proof/Syntax.lean ====
section
/-! DEFINITION. The 27 commands of 30_encoding.md rule R82, the reason a command word is no command,
and the moves of the host (70_reset_and_hazards.md rule R268). -/

namespace Sys2Proof

/-- The commands, one constructor per row of the opcode table. An argument stands only where R83 gives
CMD_ARG a meaning; every other command ignores all 32 bits of it. -/
inductive Instr where
  /-- CRC.INIT (R124) -/
  | crcInit
  /-- CRC.UPDB b (R125): `b` is CMD_ARG[7:0]. -/
  | crcUpdb (b : Byte)
  /-- CRC.FINAL (R128) -/
  | crcFinal
  /-- CRC.CALC (R127) -/
  | crcCalc
  /-- TC.FROMBYTES w (R142): `w` is CMD_ARG, four candidate type bytes packed by R84. -/
  | tcFrombytes (w : Word)
  /-- TC.FROMTEXT (R143) -/
  | tcFromtext
  /-- TC.RAW (R144) -/
  | tcRaw
  /-- TC.TOTEXT (R145) -/
  | tcTotext
  /-- TC.ISCRIT (R147) -/
  | tcIscrit
  /-- TC.ISPUB (R148) -/
  | tcIspub
  /-- TC.ISRSV (R149) -/
  | tcIsrsv
  /-- TC.ISSAFE (R150) -/
  | tcIssafe
  /-- TC.ISVALID (R151) -/
  | tcIsvalid
  /-- CH.ENCODE (R163) -/
  | chEncode
  /-- CH.DECODE off (R165): `off` is CMD_ARG, an unsigned byte offset into IBUF. -/
  | chDecode (off : Word)
  /-- CH.SERIALIZE (R167) -/
  | chSerialize
  /-- CH.ASTEXT (R169) -/
  | chAstext
  /-- CH.LENGTH (R171) -/
  | chLength
  /-- CH.TYPE (R174) -/
  | chType
  /-- CH.DATA (R172) -/
  | chData
  /-- CH.CRC (R173) -/
  | chCrc
  /-- CT.PARSE (R192) -/
  | ctParse
  /-- CT.APPEND (R197) -/
  | ctAppend
  /-- CT.REMOVE (R198) -/
  | ctRemove
  /-- CT.FIND (R200) -/
  | ctFind
  /-- CT.SERIALIZE (R201) -/
  | ctSerialize
  /-- CT.DESCRIBE (R202) -/
  | ctDescribe
  deriving DecidableEq, Repr

/-- Why a command word is no command: its CMD_OP is one of the 229 undefined values (R86). -/
inductive DecodeError where
  | undefinedOp (op : Byte)
  deriving DecidableEq, Repr

/-- The registers H.RDREG can name (R268). -/
inductive HostReg where
  | status
  | res
  | ilen
  | olen
  | loaded
  | nchunks
  | busy
  deriving DecidableEq, Repr

/-- The moves of the host (R268). -/
inductive HostMove where
  /-- H.WRIBUF s, which requires `|s| <= CAP_BUF`. -/
  | wribuf (s : Bytes)
  /-- H.CMD op arg: the host presents a command word (R80). -/
  | cmd (w : CmdWord)
  /-- H.RDOBUF -/
  | rdobuf
  /-- H.RDREG name -/
  | rdreg (r : HostReg)
  /-- reset (R260) -/
  | reset
  deriving DecidableEq, Repr

/-- What the host gets from a reading move (R268). -/
inductive HostReply where
  /-- the byte sequence OBUF[0..OLEN) -/
  | obuf (s : Bytes)
  /-- the value of a register, as a number -/
  | reg (r : HostReg) (v : Nat)
  deriving DecidableEq, Repr

end Sys2Proof
end

