-- ==== Sys2Proof/WellFormed.lean ====
section
/-! DEFINITION. When a parameter setting and a host move are well-formed. A command has no check of its
own: the type of each operand is exactly the field R83 gives it. -/

namespace Sys2Proof

/-- Every command is well-formed: R83 accepts any value of a used field, and the operand types (8 bits
for CRC.UPDB, 32 bits for TC.FROMBYTES and CH.DECODE) hold nothing else. -/
def Instr.wf (_ : Instr) : Bool := true

/-- The constraints of R7: CAP_BUF >= 12 when it is bounded, CAP_CHUNKS <= 2^32 - 1. -/
def Caps.wf (c : Caps) : Bool :=
  (match c.buf with
   | none => true
   | some n => decide (12 ≤ n)) && decide (c.chunks ≤ 2 ^ 32 - 1)

/-- The precondition R268 puts on H.WRIBUF: the bytes fit CAP_BUF. Every other move is always allowed. -/
def HostMove.wf (c : Caps) : HostMove → Bool
  | .wribuf s =>
    match c.buf with
    | none => true
    | some n => decide (s.length ≤ n)
  | .cmd _ => true
  | .rdobuf => true
  | .rdreg _ => true
  | .reset => true

end Sys2Proof
end

