-- ==== Sys2Proof/Decode.lean ====
section
/-! DEFINITION. From a command word to a command and back (30_encoding.md rules R80, R82, R83, R86). -/

namespace Sys2Proof

/-- CMD_OP, bits 39:32 (R80). -/
def cmdOp (w : CmdWord) : Byte := w.extractLsb' 32 8

/-- CMD_ARG, bits 31:0 (R80). -/
def cmdArg (w : CmdWord) : Word := w.extractLsb' 0 32

/-- The command word with these two fields (R80). -/
def cmdWord (op : Byte) (arg : Word) : CmdWord := op ++ arg

/-- The opcode map of R82 with the ARG fields of R83; every other CMD_OP is undefined (R86). Total. -/
def decode (w : CmdWord) : Except DecodeError Instr :=
  match (cmdOp w).toNat with
  | 0x00 => .ok .crcInit
  | 0x01 => .ok (.crcUpdb ((cmdArg w).extractLsb' 0 8))
  | 0x02 => .ok .crcFinal
  | 0x03 => .ok .crcCalc
  | 0x10 => .ok (.tcFrombytes (cmdArg w))
  | 0x11 => .ok .tcFromtext
  | 0x12 => .ok .tcRaw
  | 0x13 => .ok .tcTotext
  | 0x14 => .ok .tcIscrit
  | 0x15 => .ok .tcIspub
  | 0x16 => .ok .tcIsrsv
  | 0x17 => .ok .tcIssafe
  | 0x18 => .ok .tcIsvalid
  | 0x20 => .ok .chEncode
  | 0x21 => .ok (.chDecode (cmdArg w))
  | 0x22 => .ok .chSerialize
  | 0x23 => .ok .chAstext
  | 0x24 => .ok .chLength
  | 0x25 => .ok .chType
  | 0x26 => .ok .chData
  | 0x27 => .ok .chCrc
  | 0x30 => .ok .ctParse
  | 0x31 => .ok .ctAppend
  | 0x32 => .ok .ctRemove
  | 0x33 => .ok .ctFind
  | 0x34 => .ok .ctSerialize
  | 0x35 => .ok .ctDescribe
  | _ => .error (.undefinedOp (cmdOp w))

/-- CMD_OP of each command (R82). -/
def opcode : Instr → Byte
  | .crcInit => 0x00
  | .crcUpdb _ => 0x01
  | .crcFinal => 0x02
  | .crcCalc => 0x03
  | .tcFrombytes _ => 0x10
  | .tcFromtext => 0x11
  | .tcRaw => 0x12
  | .tcTotext => 0x13
  | .tcIscrit => 0x14
  | .tcIspub => 0x15
  | .tcIsrsv => 0x16
  | .tcIssafe => 0x17
  | .tcIsvalid => 0x18
  | .chEncode => 0x20
  | .chDecode _ => 0x21
  | .chSerialize => 0x22
  | .chAstext => 0x23
  | .chLength => 0x24
  | .chType => 0x25
  | .chData => 0x26
  | .chCrc => 0x27
  | .ctParse => 0x30
  | .ctAppend => 0x31
  | .ctRemove => 0x32
  | .ctFind => 0x33
  | .ctSerialize => 0x34
  | .ctDescribe => 0x35

/-- CMD_ARG of each command, with every ignored bit 0 (R83; R91 encodes a bare mnemonic with ARG = 0). -/
def argument : Instr → Word
  | .crcUpdb b => b.setWidth 32
  | .tcFrombytes w => w
  | .chDecode off => off
  | .crcInit | .crcFinal | .crcCalc | .tcFromtext | .tcRaw | .tcTotext
  | .tcIscrit | .tcIspub | .tcIsrsv | .tcIssafe | .tcIsvalid | .chEncode
  | .chSerialize | .chAstext | .chLength | .chType | .chData | .chCrc
  | .ctParse | .ctAppend | .ctRemove | .ctFind | .ctSerialize | .ctDescribe => 0

/-- The bits of CMD_ARG a command uses (R83). -/
def argMask : Instr → Word
  | .crcUpdb _ => 0x000000FF
  | .tcFrombytes _ => 0xFFFFFFFF
  | .chDecode _ => 0xFFFFFFFF
  | .crcInit | .crcFinal | .crcCalc | .tcFromtext | .tcRaw | .tcTotext
  | .tcIscrit | .tcIspub | .tcIsrsv | .tcIssafe | .tcIsvalid | .chEncode
  | .chSerialize | .chAstext | .chLength | .chType | .chData | .chCrc
  | .ctParse | .ctAppend | .ctRemove | .ctFind | .ctSerialize | .ctDescribe => 0

/-- The command word of a command, ignored bits 0. -/
def encode (i : Instr) : CmdWord := cmdWord (opcode i) (argument i)

/-- The command in a word numbered as spec/opcode_table.json numbers it: the table gives all 40 bits of
the one format (R80); bits above `nbits` are 0. -/
def decodeTableWord (nbits w : Nat) : Option Instr :=
  match decode (BitVec.ofNat 40 (w % 2 ^ nbits)) with
  | .ok i => some i
  | .error _ => none

end Sys2Proof
end

