-- ==== Sys2Proof/Machine/State.lean ====
section
/-! DEFINITION. The block's state (10_state.md rule R20) and its reset values (R37), the block with its
parameters and its host, and the ways a command ends other than OK (60_exceptions.md rules R220, R232). -/

namespace Sys2Proof.Machine

/-- The whole architectural state of the block: exactly the nine fields of R20, nothing else. ILEN and
OLEN are the lengths of IBUF and OBUF (R20), NCHUNKS is the length of CLIST and BUSY is 0 (R26):
computed in Machine/Ops.lean, not stored twice. The constants, the parameters and the command being
executed are no fields of it (R36): see `Block.step`. -/
structure Block where
  /-- CRCR (R21) -/
  crcr : Word
  /-- WTC with its valid bit (R22) -/
  wtc : Option TypeCode
  /-- WCH with its valid bit (R23) -/
  wch : Option ChunkRec
  /-- RES (R24) -/
  res : Word
  /-- STATUS (R25) -/
  status : Byte
  /-- LOADED (R26) -/
  loaded : Bool
  /-- CLIST (R29), first chunk on the wire first -/
  clist : List ChunkRec
  /-- IBUF[0..ILEN) (R31) -/
  ibuf : Bytes
  /-- OBUF[0..OLEN) (R32) -/
  obuf : Bytes
  deriving DecidableEq, Repr

/-- The block after reset (R37, R260). -/
def Block.reset : Block where
  crcr := 0xFFFFFFFF
  wtc := none
  wch := none
  res := 0
  status := 0x00
  loaded := false
  clist := []
  ibuf := []
  obuf := []

/-- What the host's interface steps: the block (R20), which it `extends`, with what stands OUTSIDE the
block, since `step` takes a state and nothing else: the parameters the block is built with, and the
host (R15: the second agent, outside the block). A command reads and writes the block alone and takes
the parameters, its opcode and its argument as inputs (`Block.step`). -/
structure State extends Block where
  /-- The parameters CAP_BUF, CAP_CHUNKS and CAP_STORE (R7, R36), written by nothing (DESIGN CHOICE, log entry 2, safe). -/
  caps : Caps
  /-- The host's moves still to come (R268), the next one first (DESIGN CHOICE, log entry 1, safe). -/
  moves : List HostMove
  /-- What the host's reading moves have given it (R268), oldest first (DESIGN CHOICE, log entry 1, safe). -/
  replies : List HostReply
  deriving DecidableEq, Repr

/-- The reset block (R260), with the unbounded setting of R7 (log entry 2) and a host that has made no
move (log entry 1). -/
def State.reset : State where
  toBlock := Block.reset
  caps := Caps.unbounded
  moves := []
  replies := []

/-- The six error kinds (R220): outcomes of a command, after which the machine goes on. -/
inductive ErrorKind where
  | invalidSignature
  | truncated
  | invalidLength
  | invalidEncoding
  | crcMismatch
  | notFound
  deriving DecidableEq, Repr

/-- The five reasons of the outcome REFUSED (R232). REFUSED is an outcome the spec gives an effect
(STATUS is written, nothing else changes), so it is a next state here and never `Refusal`
(DESIGN CHOICE, log entry 5, safe). -/
inductive RefuseReason where
  | undefinedOp
  | noOperand
  | notLoaded
  | capacity
  | lengthRange
  deriving DecidableEq, Repr

/-- Why the machine stops. No command stops it. -/
inductive Fault where
  /-- H.WRIBUF of more than CAP_BUF bytes: the host has no such move (R268, U19). Raised by
  `writeIbuf`; safe, the model stops where the spec gives no effect (log entry 6). -/
  | wribufPastCapBuf
  deriving DecidableEq, Repr

/-- Why a command has no meaning. No arm of `exec` uses it: all 27 commands have their meaning. -/
inductive Refusal where
  /-- An instruction the model does not give a meaning. Raised by nothing; it would be safe. -/
  | notModelled (mnemonic : String)
  deriving DecidableEq, Repr

end Sys2Proof.Machine
end

