-- ==== Sys2Proof/Machine/Flags.lean ====
section
/-! DEFINITION. STATUS: its two fields and the byte of every outcome (10_state.md rule R25,
30_encoding.md rule R90). -/

namespace Sys2Proof.Machine

/-- STATUS.KIND, bits 3:0 (R25). -/
def statusKind (st : Byte) : BitVec 4 := st.extractLsb' 0 4

/-- STATUS.SUB, bits 7:4 (R25). -/
def statusSub (st : Byte) : BitVec 4 := st.extractLsb' 4 4

/-- The byte with these two fields. -/
def statusByte (sub kind : BitVec 4) : Byte := sub ++ kind

/-- STATUS of the outcome OK (R13). -/
def statusOk : Byte := statusByte 0 0

/-- KIND of an error (R25, R220). -/
def errorCode : ErrorKind → BitVec 4
  | .invalidSignature => 1
  | .truncated => 2
  | .invalidLength => 3
  | .invalidEncoding => 4
  | .crcMismatch => 5
  | .notFound => 6

/-- STATUS of an error: its code, SUB = 0 (R230). -/
def errorStatus (k : ErrorKind) : Byte := statusByte 0 (errorCode k)

/-- SUB of a refusal (R232). -/
def refuseSub : RefuseReason → BitVec 4
  | .undefinedOp => 1
  | .noOperand => 2
  | .notLoaded => 3
  | .capacity => 4
  | .lengthRange => 5

/-- STATUS of a refusal: 0x07 + 16 * SUB (R232). -/
def refuseStatus (r : RefuseReason) : Byte := statusByte (refuseSub r) 7

end Sys2Proof.Machine
end

