-- ==== Sys2Proof/Machine/Ops.lean ====
section
/-! DEFINITION. The named operations over registers and buffers, the four ways a command ends, and the
byte-order helpers. Every meaning is written over these: a
command is a function on the block, lifted to the whole state by `onBlock`. -/

namespace Sys2Proof.Machine

/-- What a step answers. -/
abbrev Out := Host.Outcome State Fault Refusal

-- Register and buffer writes: one per field that something writes.

def Block.withCrcr (b : Block) (v : Word) : Block := { b with crcr := v }
def Block.withWtc (b : Block) (t : TypeCode) : Block := { b with wtc := some t }
def Block.withWch (b : Block) (c : ChunkRec) : Block := { b with wch := some c }
def Block.withRes (b : Block) (v : Word) : Block := { b with res := v }
def Block.withStatus (b : Block) (v : Byte) : Block := { b with status := v }
def Block.withLoaded (b : Block) (l : Bool) : Block := { b with loaded := l }
def Block.withClist (b : Block) (cs : List ChunkRec) : Block := { b with clist := cs }
/-- IBUF is written whole, by the host only; ILEN follows (R31). -/
def Block.withIbuf (b : Block) (bs : Bytes) : Block := { b with ibuf := bs }
/-- OBUF is written whole; OLEN follows (R32). -/
def Block.withObuf (b : Block) (bs : Bytes) : Block := { b with obuf := bs }
def State.withBlock (s : State) (b : Block) : State := { s with toBlock := b }
def State.withMoves (s : State) (ms : List HostMove) : State := { s with moves := ms }
def State.withReplies (s : State) (rs : List HostReply) : State := { s with replies := rs }

-- Registers that are views (R20, R26).

/-- ILEN = |IBUF| -/
def Block.ilen (b : Block) : Nat := b.ibuf.length
/-- OLEN = |OBUF| -/
def Block.olen (b : Block) : Nat := b.obuf.length
/-- NCHUNKS = the number of elements of CLIST -/
def Block.nchunks (b : Block) : Nat := b.clist.length
/-- BUSY: 0 in every state of the one-step model (R26, R270; log entry 8). -/
def Block.busy (_ : Block) : BitVec 1 := 0

-- The ends of a command (R13, R236).

/-- Outcome OK: STATUS <- 0x00 on top of the result. -/
def done (b : Block) : Block := b.withStatus statusOk

/-- Outcome of an error kind: STATUS <- its code and nothing else (R230). The block is idle again. -/
def raise (k : ErrorKind) (b : Block) : Block := b.withStatus (errorStatus k)

/-- Outcome REFUSED: STATUS <- 0x07 + 16 * SUB and nothing else (R232). -/
def refuse (r : RefuseReason) (b : Block) : Block := b.withStatus (refuseStatus r)

/-- A command in the whole state: the block is what it makes of the block, and nothing else changes. -/
def onBlock (f : Block → Block) (s : State) : Out := .next (s.withBlock (f s.toBlock))

-- Buffers as byte spaces (R11, R28).

/-- MemRead(space, addr, n): the bytes space[addr..addr+n), defined only when they all exist (R11, R56). -/
def memRead (space : Bytes) (addr n : Nat) : Option Bytes :=
  if addr + n ≤ space.length then some ((space.drop addr).take n) else none

/-- One byte of a space; an index at or above its length does not exist (R31, R32). -/
def readByte (space : Bytes) (addr : Nat) : Option Byte := space[addr]?

/-- A list of (address, byte) cells. -/
abbrev Memory := List Host.Cell

/-- The canonical form of a memory: addresses strictly rising (R28 gives each space one byte per index;
an unlisted address holds nothing, so no entry can equal what it reads as). -/
def Memory.wf : Memory → Bool
  | [] => true
  | [_] => true
  | (a, _) :: (b, y) :: m => decide (a < b) && Memory.wf ((b, y) :: m)

/-- The cells of a space from address `a` on. -/
def cellsFrom (a : Nat) : Bytes → Memory
  | [] => []
  | b :: bs => (a, b) :: cellsFrom (a + 1) bs

/-- A space as a memory of cells: index i is address i, indices at or above its length are unlisted
(R28; log entry 4). -/
def Memory.cells (space : Bytes) : Memory := cellsFrom 0 space

/-- Is this number of bytes within CAP_BUF (R7)? -/
def fitsBuf (c : Caps) (n : Nat) : Bool :=
  match c.buf with
  | none => true
  | some k => decide (n ≤ k)

/-- Is this number of chunks within CAP_CHUNKS (R7)? -/
def fitsChunks (c : Caps) (n : Nat) : Bool := decide (n ≤ c.chunks)

/-- Is this number of payload bytes within CAP_STORE (R7)? -/
def fitsStore (c : Caps) (n : Nat) : Bool :=
  match c.store with
  | none => true
  | some k => decide (n ≤ k)

/-- OBUF <- bs; OLEN <- |bs|, or REFUSED with CAPACITY when a result of `n` bytes does not fit CAP_BUF.
CAPACITY is the last check of every command that produces bytes (R233). -/
def emit (k : Caps) (n : Nat) (bs : Bytes) (b : Block) : Block :=
  if fitsBuf k n then done (b.withObuf bs) else refuse .capacity b

-- Byte order (R12, R50).

/-- be32(v): most significant byte first. -/
def be32 (v : Word) : Bytes :=
  [v.extractLsb' 24 8, v.extractLsb' 16 8, v.extractLsb' 8 8, v.extractLsb' 0 8]

/-- from_be32 of the four bytes s[0], s[1], s[2], s[3]; the sum is below 2^32. -/
def fromBe32 (s0 s1 s2 s3 : Byte) : Word :=
  BitVec.ofNat 32 (2 ^ 24 * s0.toNat + 2 ^ 16 * s1.toNat + 2 ^ 8 * s2.toNat + s3.toNat)

/-- The four bytes of a type code in wire order. -/
def typeBytes (t : TypeCode) : Bytes := [t.b0, t.b1, t.b2, t.b3]

/-- pack4 (R84): byte 0 of the type code in bits 31:24. -/
def pack4 (t : TypeCode) : Word := fromBe32 t.b0 t.b1 t.b2 t.b3

/-- unpack4 (R84). -/
def unpack4 (w : Word) : TypeCode :=
  ⟨w.extractLsb' 24 8, w.extractLsb' 16 8, w.extractLsb' 8 8, w.extractLsb' 0 8⟩

/-- A truth value as RES holds it (R24). -/
def boolWord (b : Bool) : Word := if b then 1 else 0

end Sys2Proof.Machine
end

