-- ==== Sys2Proof/Machine/Operands.lean ====
section
/-! DEFINITION. Where a command's operands come from (30_encoding.md rule R85): WTC, WCH, the loaded
container, and the text in IBUF. The immediate operands (R83) are taken by the decoder. -/

namespace Sys2Proof.Machine

/-- WTC as an operand: REFUSED with NO_OPERAND while it is not valid (R22, R232). -/
def needWtc (b : Block) (f : TypeCode → Block) : Block :=
  match b.wtc with
  | none => refuse .noOperand b
  | some t => f t

/-- WCH as an operand: REFUSED with NO_OPERAND while it is not valid (R23, R232). -/
def needWch (b : Block) (f : ChunkRec → Block) : Block :=
  match b.wch with
  | none => refuse .noOperand b
  | some c => f c

/-- The container as an operand: REFUSED with NOT_LOADED while LOADED = 0 (R190, R232). -/
def needLoaded (b : Block) (f : List ChunkRec → Block) : Block :=
  if b.loaded then f b.clist else refuse .notLoaded b

/-- The input bytes or text: IBUF[0..ILEN) (D35). -/
def inputBytes (b : Block) : Bytes := b.ibuf

end Sys2Proof.Machine
end

