-- ==== Sys2Proof/Machine/TypeCode.lean ====
section
/-! DEFINITION. The type-code unit (41_typecode.md): the letter and case tests, and the nine TC
commands. -/

namespace Sys2Proof.Machine

/-- is_upper(b): an uppercase ASCII letter (R14, R146). -/
def isUpper (b : Byte) : Bool := decide (0x41 ≤ b.toNat) && decide (b.toNat ≤ 0x5A)

/-- A lowercase ASCII letter (R14). -/
def isLower (b : Byte) : Bool := decide (0x61 ≤ b.toNat) && decide (b.toNat ≤ 0x7A)

/-- is_letter(b) (R14, R140). -/
def isLetter (b : Byte) : Bool := isUpper b || isLower b

/-- All four bytes are ASCII letters: what makes four bytes a type code (R140). -/
def allLetters (t : TypeCode) : Bool :=
  isLetter t.b0 && isLetter t.b1 && isLetter t.b2 && isLetter t.b3

/-- is_critical (R146). -/
def isCritical (t : TypeCode) : Bool := isUpper t.b0
/-- is_public (R146). -/
def isPublic (t : TypeCode) : Bool := isUpper t.b1
/-- is_reserved_bit_valid (R146). -/
def isReservedBitValid (t : TypeCode) : Bool := isUpper t.b2
/-- is_safe_to_copy (R146): true when byte 3 is not uppercase; the polarity is 90_conflicts.md C3. -/
def isSafeToCopy (t : TypeCode) : Bool := !isUpper t.b3
/-- is_valid (R146): the reserved bit alone. -/
def isValid (t : TypeCode) : Bool := isReservedBitValid t

/-- from_bytes: WTC takes four letters, anything else is InvalidEncoding (R142, R143). -/
def setWtcChecked (t : TypeCode) (b : Block) : Block :=
  if allLetters t then done (b.withWtc t) else raise .invalidEncoding b

/-- A property of WTC as 0 or 1 in RES (R147 to R151). -/
def wtcProperty (p : TypeCode → Bool) (b : Block) : Block :=
  needWtc b fun t => done (b.withRes (boolWord (p t)))

/-- TC.FROMBYTES w (R142). -/
def cmdTcFrombytes (w : Word) (b : Block) : Block := setWtcChecked (unpack4 w) b

/-- TC.FROMTEXT (R143): the text is exactly four bytes, each a letter. -/
def cmdTcFromtext (b : Block) : Block :=
  match inputBytes b with
  | [t0, t1, t2, t3] => setWtcChecked ⟨t0, t1, t2, t3⟩ b
  | _ => raise .invalidEncoding b

/-- TC.RAW (R144). -/
def cmdTcRaw (b : Block) : Block := needWtc b fun t => done (b.withRes (pack4 t))

/-- TC.TOTEXT (R145). -/
def cmdTcTotext (k : Caps) (b : Block) : Block := needWtc b fun t => emit k typeLen (typeBytes t) b

/-- TC.ISCRIT (R147). -/
def cmdTcIscrit (b : Block) : Block := wtcProperty isCritical b

/-- TC.ISPUB (R148). -/
def cmdTcIspub (b : Block) : Block := wtcProperty isPublic b

/-- TC.ISRSV (R149). -/
def cmdTcIsrsv (b : Block) : Block := wtcProperty isReservedBitValid b

/-- TC.ISSAFE (R150). -/
def cmdTcIssafe (b : Block) : Block := wtcProperty isSafeToCopy b

/-- TC.ISVALID (R151). -/
def cmdTcIsvalid (b : Block) : Block := wtcProperty isValid b

-- The commands in the whole state.

def execTcFrombytes (w : Word) (s : State) : Out := onBlock (cmdTcFrombytes w) s
def execTcFromtext (s : State) : Out := onBlock cmdTcFromtext s
def execTcRaw (s : State) : Out := onBlock cmdTcRaw s
def execTcTotext (s : State) : Out := onBlock (cmdTcTotext s.caps) s
def execTcIscrit (s : State) : Out := onBlock cmdTcIscrit s
def execTcIspub (s : State) : Out := onBlock cmdTcIspub s
def execTcIsrsv (s : State) : Out := onBlock cmdTcIsrsv s
def execTcIssafe (s : State) : Out := onBlock cmdTcIssafe s
def execTcIsvalid (s : State) : Out := onBlock cmdTcIsvalid s

end Sys2Proof.Machine
end

