-- ==== Sys2Proof/Machine/Chunk.lean ====
section
/-! DEFINITION. The chunk framer (42_chunk.md): the frame function, the decode function, the UTF-8
table, and the eight CH commands. -/

namespace Sys2Proof.Machine

/-- frame(c) (R161, R88): length, type, data, crc. The stored length and crc are written, neither is
recomputed. -/
def frame (c : ChunkRec) : Bytes := be32 c.length ++ typeBytes c.type ++ c.data ++ be32 c.crc

/-- 12 + c.length: the bytes a chunk takes on the wire (R161). -/
def frameLen (c : ChunkRec) : Nat := frameOverhead + c.length.toNat

/-- The chunk CH.ENCODE builds from a type code and a payload (R163). -/
def encodeChunk (t : TypeCode) (p : Bytes) : ChunkRec :=
  ⟨BitVec.ofNat 32 p.length, t, p, crc32 (typeBytes t ++ p)⟩

/-- Four bytes read as a big-endian word (R50). -/
def wordOf : Bytes → Option Word
  | [s0, s1, s2, s3] => some (fromBe32 s0 s1 s2 s3)
  | _ => none

/-- Four bytes read as a candidate type code, letters not yet tested. -/
def typeOf : Bytes → Option TypeCode
  | [t0, t1, t2, t3] => some ⟨t0, t1, t2, t3⟩
  | _ => none

/-- The length field of the frame at `off`: `none` when fewer than 4 bytes are there (R164 steps 1, 2). -/
def readLength (buf : Bytes) (off : Nat) : Option Word := (memRead buf off 4).bind wordOf

/-- The type, payload and stored CRC of the frame at `off` with payload length `len`: `none` when the
buffer ends before the frame does (R164 steps 3 to 6; C4: the CRC is the frame's last 4 bytes). -/
def readBody (buf : Bytes) (off len : Nat) : Option (TypeCode × Bytes × Word) :=
  (memRead buf off (frameOverhead + len)).bind fun _ =>
  ((memRead buf (off + 4) typeLen).bind typeOf).bind fun t =>
  (memRead buf (off + 8) len).bind fun d =>
  ((memRead buf (off + 8 + len) 4).bind wordOf).map fun c => (t, d, c)

/-- DecodeAt(buf, off) (R164): the first failing step decides; on success the chunk and the bytes it
occupies. The stored checksum goes into the record. -/
def decodeAt (buf : Bytes) (off : Nat) : Except ErrorKind (ChunkRec × Nat) :=
  match readLength buf off with
  | none => .error .truncated
  | some len =>
    if maxLen < len.toNat then .error .invalidLength
    else
      match readBody buf off len.toNat with
      | none => .error .truncated
      | some (t, d, c) =>
        if !allLetters t then .error .invalidEncoding
        else if crc32 (typeBytes t ++ d) ≠ c then .error .crcMismatch
        else .ok (⟨len, t, d, c⟩, frameOverhead + len.toNat)

/-- An inclusive range of bytes. -/
abbrev ByteRange := Nat × Nat

/-- Is the byte in the range? -/
def inRange (r : ByteRange) (b : Byte) : Bool := decide (r.1 ≤ b.toNat) && decide (b.toNat ≤ r.2)

/-- The well-formed UTF-8 sequences, one row per row of R170: the range of the first byte, then those of
the bytes after it. -/
def utf8Rows : List (ByteRange × List ByteRange) :=
  [((0x00, 0x7F), []),
   ((0xC2, 0xDF), [(0x80, 0xBF)]),
   ((0xE0, 0xE0), [(0xA0, 0xBF), (0x80, 0xBF)]),
   ((0xE1, 0xEC), [(0x80, 0xBF), (0x80, 0xBF)]),
   ((0xED, 0xED), [(0x80, 0x9F), (0x80, 0xBF)]),
   ((0xEE, 0xEF), [(0x80, 0xBF), (0x80, 0xBF)]),
   ((0xF0, 0xF0), [(0x90, 0xBF), (0x80, 0xBF), (0x80, 0xBF)]),
   ((0xF1, 0xF3), [(0x80, 0xBF), (0x80, 0xBF), (0x80, 0xBF)]),
   ((0xF4, 0xF4), [(0x80, 0x8F), (0x80, 0xBF), (0x80, 0xBF)])]

/-- The ranges that must follow a first byte, if it can be one. -/
def utf8Lead (b : Byte) : Option (List ByteRange) :=
  (utf8Rows.find? fun row => inRange row.1 b).map (·.2)

/-- Reads bytes against the ranges still owed by the sequence begun; at the end nothing may be owed. -/
def utf8From : List ByteRange → Bytes → Bool
  | owed, [] => owed.isEmpty
  | [], b :: bs =>
    match utf8Lead b with
    | none => false
    | some rs => utf8From rs bs
  | r :: rs, b :: bs => inRange r b && utf8From rs bs

/-- utf8_valid(s) (R170). -/
def utf8Valid (s : Bytes) : Bool := utf8From [] s

/-- CH.ENCODE (R163): NO_OPERAND before LENGTH_RANGE (R233); CRCR is not touched (D16). -/
def cmdChEncode (b : Block) : Block :=
  needWtc b fun t =>
    if maxLen < b.ilen then refuse .lengthRange b
    else done (b.withWch (encodeChunk t (inputBytes b)))

/-- CH.DECODE off (R165): an offset past ILEN is Truncated (D34); RES <- 12 + length. -/
def cmdChDecode (off : Word) (b : Block) : Block :=
  if b.ilen < off.toNat then raise .truncated b
  else
    match decodeAt (inputBytes b) off.toNat with
    | .error e => raise e b
    | .ok (c, used) => done ((b.withWch c).withRes (BitVec.ofNat 32 used))

/-- CH.SERIALIZE (R167). -/
def cmdChSerialize (k : Caps) (b : Block) : Block := needWch b fun c => emit k (frameLen c) (frame c) b

/-- CH.ASTEXT (R169): the UTF-8 test before the capacity test (R233, C8). -/
def cmdChAstext (k : Caps) (b : Block) : Block :=
  needWch b fun c =>
    if utf8Valid c.data then emit k c.length.toNat c.data b else raise .invalidEncoding b

/-- CH.LENGTH (R171). -/
def cmdChLength (b : Block) : Block := needWch b fun c => done (b.withRes c.length)

/-- CH.TYPE (R174): writes WTC and, packed, RES. -/
def cmdChType (b : Block) : Block :=
  needWch b fun c => done ((b.withWtc c.type).withRes (pack4 c.type))

/-- CH.DATA (R172). -/
def cmdChData (k : Caps) (b : Block) : Block := needWch b fun c => emit k c.length.toNat c.data b

/-- CH.CRC (R173). -/
def cmdChCrc (b : Block) : Block := needWch b fun c => done (b.withRes c.crc)

-- The commands in the whole state.

def execChEncode (s : State) : Out := onBlock cmdChEncode s
def execChDecode (off : Word) (s : State) : Out := onBlock (cmdChDecode off) s
def execChSerialize (s : State) : Out := onBlock (cmdChSerialize s.caps) s
def execChAstext (s : State) : Out := onBlock (cmdChAstext s.caps) s
def execChLength (s : State) : Out := onBlock cmdChLength s
def execChType (s : State) : Out := onBlock cmdChType s
def execChData (s : State) : Out := onBlock (cmdChData s.caps) s
def execChCrc (s : State) : Out := onBlock cmdChCrc s

end Sys2Proof.Machine
end

