-- ==== Sys2Proof/Machine/Container.lean ====
section
/-! DEFINITION. The chunk container (43_container.md): the wire function, the parse loop, matching a
type text, and the six CT commands. -/

namespace Sys2Proof.Machine

/-- frame(c_0) ++ ... ++ frame(c_{n-1}). -/
def framesOf : List ChunkRec → Bytes
  | [] => []
  | c :: cs => frame c ++ framesOf cs

/-- wire(cs) (R191). -/
def wire (cs : List ChunkRec) : Bytes := sig ++ framesOf cs

/-- Σ c.length over a list (R35). -/
def payloadSum : List ChunkRec → Nat
  | [] => 0
  | c :: cs => c.length.toNat + payloadSum cs

/-- 8 + Σ (12 + c.length): the serialized length (R196). -/
def wireLen : List ChunkRec → Nat
  | [] => sigLen
  | c :: cs => frameLen c + wireLen cs

/-- The parse loop of R192 from cursor `cur`. Each round that goes on moves the cursor by at least 12,
so `|buf| - cur` rounds are enough (R193) and the first arm is never reached from `parse`
(`Obligations.ParseLoopDecodesFrameByFrame`: the rounds left over do not matter). -/
def parseFrom (buf : Bytes) : Nat → Nat → Except ErrorKind (List ChunkRec)
  | 0, cur => if cur < buf.length then .error .truncated else .ok []
  | rounds + 1, cur =>
    if cur < buf.length then
      match decodeAt buf cur with
      | .error k => .error k
      | .ok (c, used) =>
        match parseFrom buf rounds (cur + used) with
        | .error k => .error k
        | .ok cs => .ok (c :: cs)
    else .ok []

/-- The chunks of a whole buffer, or the first error in the order of R235: the signature, then the
frames. A buffer of fewer than 8 bytes is InvalidSignature (D13). -/
def parse (buf : Bytes) : Except ErrorKind (List ChunkRec) :=
  if memRead buf 0 sigLen = some sig then parseFrom buf buf.length sigLen
  else .error .invalidSignature

/-- matches(t, q) (R199): the text is exactly the four bytes of the type. -/
def matchesText (t : TypeCode) (q : Bytes) : Bool := decide (q = typeBytes t)

/-- The first element whose type matches the text, with its index (R198, R200). -/
def firstMatch (q : Bytes) : List ChunkRec → Option (Nat × ChunkRec)
  | [] => none
  | c :: cs =>
    if matchesText c.type q then some (0, c)
    else (firstMatch q cs).map fun p => (p.1 + 1, p.2)

/-- Do the list's length and payload total fit CAP_CHUNKS and CAP_STORE (R192, R197)? -/
def fitsList (k : Caps) (cs : List ChunkRec) : Bool :=
  fitsChunks k cs.length && fitsStore k (payloadSum cs)

/-- CT.PARSE (R192): all or nothing; an OK replaces the whole list (R195). The count is taken as a word
(DEDUCED, log entry 10, safe). -/
def cmdCtParse (k : Caps) (b : Block) : Block :=
  match parse (inputBytes b) with
  | .error e => raise e b
  | .ok cs =>
    if fitsList k cs then
      done (((b.withClist cs).withLoaded true).withRes (BitVec.ofNat 32 cs.length))
    else refuse .capacity b

/-- CT.APPEND (R197): NO_OPERAND before NOT_LOADED (R233, C8). WCH is copied (D25). -/
def cmdCtAppend (k : Caps) (b : Block) : Block :=
  needWch b fun c => needLoaded b fun cs =>
    if fitsList k (cs ++ [c]) then
      done ((b.withClist (cs ++ [c])).withRes (BitVec.ofNat 32 (cs.length + 1)))
    else refuse .capacity b

/-- CT.REMOVE (R198): the first match only. The index is taken as a word (DEDUCED, log entry 10, safe). -/
def cmdCtRemove (b : Block) : Block :=
  needLoaded b fun cs =>
    match firstMatch (inputBytes b) cs with
    | none => raise .notFound b
    | some (i, _) =>
      done ((b.withClist (cs.take i ++ cs.drop (i + 1))).withRes (BitVec.ofNat 32 i))

/-- CT.FIND (R200): a copy of the first match goes to WCH; nothing found is NotFound (C5). -/
def cmdCtFind (b : Block) : Block :=
  needLoaded b fun cs =>
    match firstMatch (inputBytes b) cs with
    | none => raise .notFound b
    | some (i, c) => done ((b.withWch c).withRes (BitVec.ofNat 32 i))

/-- CT.SERIALIZE (R201). -/
def cmdCtSerialize (k : Caps) (b : Block) : Block := needLoaded b fun cs => emit k (wireLen cs) (wire cs) b

/-- The text of CT.DESCRIBE (R202): made from SIG and each chunk's type, length and crc alone. -/
def describeText (cs : List ChunkRec) : Bytes :=
  Config.describeFmt sig (cs.map fun c => (c.type, c.length, c.crc))

/-- CT.DESCRIBE (R202). -/
def cmdCtDescribe (k : Caps) (b : Block) : Block :=
  needLoaded b fun cs => emit k (describeText cs).length (describeText cs) b

-- The commands in the whole state.

def execCtParse (s : State) : Out := onBlock (cmdCtParse s.caps) s
def execCtAppend (s : State) : Out := onBlock (cmdCtAppend s.caps) s
def execCtRemove (s : State) : Out := onBlock cmdCtRemove s
def execCtFind (s : State) : Out := onBlock cmdCtFind s
def execCtSerialize (s : State) : Out := onBlock (cmdCtSerialize s.caps) s
def execCtDescribe (s : State) : Out := onBlock (cmdCtDescribe s.caps) s

end Sys2Proof.Machine
end

