-- ==== Sys2Proof/Machine/Block.lean ====
section
/-! DEFINITION. A command of the block by name, with the parameters as an argument (10_state.md rule R36,
00_scope.md rule R7). -/

namespace Sys2Proof.Machine

/-- What command `i` makes of the block, under the capacities `k`. -/
def Block.exec (k : Caps) (i : Instr) (b : Block) : Block :=
  match i with
  | .crcInit => cmdCrcInit b
  | .crcUpdb v => cmdCrcUpdb v b
  | .crcFinal => cmdCrcFinal b
  | .crcCalc => cmdCrcCalc b
  | .tcFrombytes w => cmdTcFrombytes w b
  | .tcFromtext => cmdTcFromtext b
  | .tcRaw => cmdTcRaw b
  | .tcTotext => cmdTcTotext k b
  | .tcIscrit => cmdTcIscrit b
  | .tcIspub => cmdTcIspub b
  | .tcIsrsv => cmdTcIsrsv b
  | .tcIssafe => cmdTcIssafe b
  | .tcIsvalid => cmdTcIsvalid b
  | .chEncode => cmdChEncode b
  | .chDecode off => cmdChDecode off b
  | .chSerialize => cmdChSerialize k b
  | .chAstext => cmdChAstext k b
  | .chLength => cmdChLength b
  | .chType => cmdChType b
  | .chData => cmdChData k b
  | .chCrc => cmdChCrc b
  | .ctParse => cmdCtParse k b
  | .ctAppend => cmdCtAppend k b
  | .ctRemove => cmdCtRemove b
  | .ctFind => cmdCtFind b
  | .ctSerialize => cmdCtSerialize k b
  | .ctDescribe => cmdCtDescribe k b

end Sys2Proof.Machine
end

