-- ==== Sys2Proof/Machine/Dispatch.lean ====
section
/-! DEFINITION. One arm per command (30_encoding.md rule R82), each one call of its meaning. -/

namespace Sys2Proof.Machine

def exec (i : Instr) (s : State) : Host.Outcome State Fault Refusal :=
  match i with
  | .crcInit => Sys2Proof.Machine.execCrcInit s
  | .crcUpdb b => Sys2Proof.Machine.execCrcUpdb b s
  | .crcFinal => Sys2Proof.Machine.execCrcFinal s
  | .crcCalc => Sys2Proof.Machine.execCrcCalc s
  | .tcFrombytes w => Sys2Proof.Machine.execTcFrombytes w s
  | .tcFromtext => Sys2Proof.Machine.execTcFromtext s
  | .tcRaw => Sys2Proof.Machine.execTcRaw s
  | .tcTotext => Sys2Proof.Machine.execTcTotext s
  | .tcIscrit => Sys2Proof.Machine.execTcIscrit s
  | .tcIspub => Sys2Proof.Machine.execTcIspub s
  | .tcIsrsv => Sys2Proof.Machine.execTcIsrsv s
  | .tcIssafe => Sys2Proof.Machine.execTcIssafe s
  | .tcIsvalid => Sys2Proof.Machine.execTcIsvalid s
  | .chEncode => Sys2Proof.Machine.execChEncode s
  | .chDecode off => Sys2Proof.Machine.execChDecode off s
  | .chSerialize => Sys2Proof.Machine.execChSerialize s
  | .chAstext => Sys2Proof.Machine.execChAstext s
  | .chLength => Sys2Proof.Machine.execChLength s
  | .chType => Sys2Proof.Machine.execChType s
  | .chData => Sys2Proof.Machine.execChData s
  | .chCrc => Sys2Proof.Machine.execChCrc s
  | .ctParse => Sys2Proof.Machine.execCtParse s
  | .ctAppend => Sys2Proof.Machine.execCtAppend s
  | .ctRemove => Sys2Proof.Machine.execCtRemove s
  | .ctFind => Sys2Proof.Machine.execCtFind s
  | .ctSerialize => Sys2Proof.Machine.execCtSerialize s
  | .ctDescribe => Sys2Proof.Machine.execCtDescribe s

end Sys2Proof.Machine
end

