-- ==== Sys2Proof/Machine/HostMoves.lean ====
section
/-! DEFINITION. One move of the host (70_reset_and_hazards.md rule R268): a command word through the
decoder to its meaning, the buffer write, the two reads, reset. -/

namespace Sys2Proof.Machine

/-- The step of the block (R8): the parameters and the command word, CMD_OP and CMD_ARG, are its inputs
(R7, R36, R81), the block is all it reads and writes (R20), and it always answers (93, Part 1). It is
the meaning of each command without the host; `exec_eq` (Laws/Ops.lean) and
`Obligations.CommandIsAStepOfTheBlock` tie it to what H.CMD does. -/
def Block.step (k : Caps) (w : CmdWord) (b : Block) : Block :=
  match decode w with
  | .error _ => refuse .undefinedOp b
  | .ok i => Block.exec k i b

/-- H.CMD: a word whose CMD_OP is undefined is REFUSED with UNDEFINED_OP (R86); any other runs its
command as one step (R8, R80). -/
def runCmd (w : CmdWord) (s : State) : Out :=
  match decode w with
  | .error _ => onBlock (refuse .undefinedOp) s
  | .ok i => exec i s

/-- H.WRIBUF: IBUF is replaced whole (R31). More than CAP_BUF bytes is no move of the host (R268, U19):
a fault (log entry 6). -/
def writeIbuf (bs : Bytes) (s : State) : Out :=
  if HostMove.wf s.caps (.wribuf bs) then .next (s.withBlock (s.toBlock.withIbuf bs)) else .fault .wribufPastCapBuf

/-- The value H.RDREG gives for each register (R268). -/
def readReg (r : HostReg) (s : State) : Nat :=
  match r with
  | .status => s.status.toNat
  | .res => s.res.toNat
  | .ilen => s.ilen
  | .olen => s.olen
  | .loaded => if s.loaded then 1 else 0
  | .nchunks => s.nchunks
  | .busy => s.busy.toNat

/-- A reading move: the answer goes to the host, the block does not change (R268). -/
def reply (r : HostReply) (s : State) : Out := .next (s.withReplies (s.replies ++ [r]))

/-- Reset (R260): every field of the block takes its reset value. What stands outside the block is not
reset: the parameters, the host's moves to come and the answers it has (log entry 1). -/
def resetBlock (s : State) : State := s.withBlock Block.reset

/-- One move of the host (R268). -/
def runMove (m : HostMove) (s : State) : Out :=
  match m with
  | .wribuf bs => writeIbuf bs s
  | .cmd w => runCmd w s
  | .rdobuf => reply (.obuf s.obuf) s
  | .rdreg r => reply (.reg r (readReg r s)) s
  | .reset => .next (resetBlock s)

/-- The host's next move is taken off its list and made; with no move the block waits, and nothing
changes (R260; log entry 7). -/
def nextMove (s : State) : Out :=
  match s.moves with
  | [] => .next s
  | m :: ms => runMove m (s.withMoves ms)

/-- The command word the host presents next, numbered as spec/opcode_table.json numbers it (bits above
`nbits` are 0), put before the moves it has still to make (log entry 9). -/
def presentWord (s : State) (nbits w : Nat) : State :=
  s.withMoves (.cmd (BitVec.ofNat 40 (w % 2 ^ nbits)) :: s.moves)

end Sys2Proof.Machine
end

