-- ==== Sys2Proof/Machine/Step.lean ====
section
/-! DEFINITION. One step of the machine: the host's next move (00_scope.md rule R8, 70_reset_and_hazards.md
rule R268). -/

namespace Sys2Proof.Machine

/-- One step. The block fetches nothing (R27): what it runs next is what the host presents next. -/
def step (s : State) : Host.Outcome State Fault Refusal := nextMove s

/-- `s` with the command word `w` as the host's next move, so that the next step runs it. -/
def State.withFetchWord (s : State) (nbits w : Nat) : State := presentWord s nbits w

end Sys2Proof.Machine
end

