-- ==== Sys2Proof/Safety.lean ====
section
/-! DEFINITION. The terms the claims are stated in: the invariants of 10_state.md rules R34 and R35,
commands run one after another, and transcriptions of the spec's tables that share nothing with the
meanings they are compared with. -/

namespace Sys2Proof.Machine

/-- An ASCII letter, by the ranges of R14. -/
abbrev AsciiLetter (b : Byte) : Prop :=
  (0x41 ≤ b.toNat ∧ b.toNat ≤ 0x5A) ∨ (0x61 ≤ b.toNat ∧ b.toNat ≤ 0x7A)

/-- An uppercase ASCII letter, by the range of R14. -/
abbrev UpperLetter (b : Byte) : Prop := 0x41 ≤ b.toNat ∧ b.toNat ≤ 0x5A

/-- Four letters (R140). -/
abbrev TypeOk (t : TypeCode) : Prop :=
  AsciiLetter t.b0 ∧ AsciiLetter t.b1 ∧ AsciiLetter t.b2 ∧ AsciiLetter t.b3

/-- The chunk invariant R34 (a) to (d). -/
structure ChunkOk (c : ChunkRec) : Prop where
  lengthIsData : c.length.toNat = c.data.length
  lengthInRange : c.length.toNat ≤ 0x7FFFFFFF
  typeLetters : TypeOk c.type
  crcIsChecksum : c.crc = crc32 (typeBytes c.type ++ c.data)

/-- `n` bytes fit CAP_BUF (R7). -/
def FitsBuf (c : Caps) (n : Nat) : Prop := ∀ k, c.buf = some k → n ≤ k

/-- `n` payload bytes fit CAP_STORE (R7). -/
def FitsStore (c : Caps) (n : Nat) : Prop := ∀ k, c.store = some k → n ≤ k

/-- A chunk list within CAP_CHUNKS and CAP_STORE (R35). -/
def FitsList (c : Caps) (cs : List ChunkRec) : Prop :=
  cs.length ≤ c.chunks ∧ FitsStore c (cs.map fun d => d.length.toNat).sum

/-- 8 + Σ (12 + c.length) (R196). -/
def serializedLength (cs : List ChunkRec) : Nat := 8 + (cs.map fun c => 12 + c.length.toNat).sum

/-- STATUS bytes that exist (R25, R90). -/
def legalStatus : List Byte :=
  [0x00, 0x01, 0x02, 0x03, 0x04, 0x05, 0x06, 0x17, 0x27, 0x37, 0x47, 0x57]

/-- The STATUS byte of each error kind, from the tables of R25 and R90. -/
def errorByte : ErrorKind → Byte
  | .invalidSignature => 0x01
  | .truncated => 0x02
  | .invalidLength => 0x03
  | .invalidEncoding => 0x04
  | .crcMismatch => 0x05
  | .notFound => 0x06

/-- The STATUS byte of each reason of REFUSED, from the tables of R90 and R232. -/
def refusedByte : RefuseReason → Byte
  | .undefinedOp => 0x17
  | .noOperand => 0x27
  | .notLoaded => 0x37
  | .capacity => 0x47
  | .lengthRange => 0x57

/-- What every state reached by steps from reset satisfies: R22 and R34 for WTC, WCH and CLIST, R35 for
the list, R26 for the buffers, R25 for STATUS, R7 for the capacities, and R190 for LOADED. The two
`Fits` fields are the observation of 95_test_vectors.md V4: a payload came from IBUF, so it fits
CAP_BUF. -/
structure Inv (s : State) : Prop where
  capsOk : s.caps.wf = true
  wtcLetters : ∀ t, s.wtc = some t → TypeOk t
  wchOk : ∀ c, s.wch = some c → ChunkOk c
  wchFits : ∀ c, s.wch = some c → FitsBuf s.caps c.data.length
  clistOk : ∀ c ∈ s.clist, ChunkOk c
  clistFits : ∀ c ∈ s.clist, FitsBuf s.caps c.data.length
  emptyUntilLoaded : s.loaded = false → s.clist = []
  listFits : FitsList s.caps s.clist
  ibufFits : FitsBuf s.caps s.ibuf.length
  obufFits : FitsBuf s.caps s.obuf.length
  statusLegal : s.status ∈ legalStatus

/-- Commands run one after another, each on the state the one before it left (R60). -/
def execAll : List Instr → State → Out
  | [], s => .next s
  | i :: is, s =>
    match exec i s with
    | .next t => execAll is t
    | .fault r => .fault r
    | .refused r => .refused r

/-- R82's table with the ARG fields of R83, row by row. -/
def opcodeMap : List (Byte × (Word → Instr)) :=
  [(0x00, fun _ => .crcInit), (0x01, fun a => .crcUpdb (a.setWidth 8)), (0x02, fun _ => .crcFinal),
   (0x03, fun _ => .crcCalc), (0x10, fun a => .tcFrombytes a), (0x11, fun _ => .tcFromtext),
   (0x12, fun _ => .tcRaw), (0x13, fun _ => .tcTotext), (0x14, fun _ => .tcIscrit),
   (0x15, fun _ => .tcIspub), (0x16, fun _ => .tcIsrsv), (0x17, fun _ => .tcIssafe),
   (0x18, fun _ => .tcIsvalid)] ++
  [(0x20, fun _ => .chEncode), (0x21, fun a => .chDecode a), (0x22, fun _ => .chSerialize),
   (0x23, fun _ => .chAstext), (0x24, fun _ => .chLength), (0x25, fun _ => .chType),
   (0x26, fun _ => .chData), (0x27, fun _ => .chCrc), (0x30, fun _ => .ctParse),
   (0x31, fun _ => .ctAppend), (0x32, fun _ => .ctRemove), (0x33, fun _ => .ctFind),
   (0x34, fun _ => .ctSerialize), (0x35, fun _ => .ctDescribe)]

/-- CMD_OP = `op`, ARG ignored: every word with that CMD_OP is the command `i` (the "Encoding" line of a
command's rule). -/
abbrev CodedAs (op : Byte) (i : Instr) : Prop := ∀ arg : Word, decode (cmdWord op arg) = .ok i

/-- The undefined CMD_OP values of R86. -/
abbrev UndefinedOpcode (op : Byte) : Prop :=
  (0x04 ≤ op.toNat ∧ op.toNat ≤ 0x0F) ∨ (0x19 ≤ op.toNat ∧ op.toNat ≤ 0x1F) ∨
  (0x28 ≤ op.toNat ∧ op.toNat ≤ 0x2F) ∨ 0x36 ≤ op.toNat

/-- The fields R85 marks "w" for a command: what an OK outcome may change. STATUS is written by every
command and stands in no row. -/
structure Writes where
  crcr : Bool := false
  wtc : Bool := false
  wch : Bool := false
  clist : Bool := false
  loaded : Bool := false
  res : Bool := false
  obuf : Bool := false
  deriving DecidableEq, Repr

/-- R85, column "w". -/
def writesOf : Instr → Writes
  | .crcInit => { crcr := true }
  | .crcUpdb _ => { crcr := true }
  | .crcFinal => { res := true }
  | .crcCalc => { crcr := true, res := true }
  | .tcFrombytes _ => { wtc := true }
  | .tcFromtext => { wtc := true }
  | .tcRaw => { res := true }
  | .tcTotext => { obuf := true }
  | .tcIscrit => { res := true }
  | .tcIspub => { res := true }
  | .tcIsrsv => { res := true }
  | .tcIssafe => { res := true }
  | .tcIsvalid => { res := true }
  | .chEncode => { wch := true }
  | .chDecode _ => { wch := true, res := true }
  | .chSerialize => { obuf := true }
  | .chAstext => { obuf := true }
  | .chLength => { res := true }
  | .chType => { wtc := true, res := true }
  | .chData => { obuf := true }
  | .chCrc => { res := true }
  | .ctParse => { clist := true, loaded := true, res := true }
  | .ctAppend => { clist := true, res := true }
  | .ctRemove => { clist := true, res := true }
  | .ctFind => { wch := true, res := true }
  | .ctSerialize => { obuf := true }
  | .ctDescribe => { obuf := true }

/-- The fields R85 marks "r" for a command. CLIST stands for the container: the list and LOADED. -/
structure Reads where
  crcr : Bool := false
  wtc : Bool := false
  wch : Bool := false
  clist : Bool := false
  ibuf : Bool := false
  deriving DecidableEq, Repr

/-- R85, column "r". -/
def readsOf : Instr → Reads
  | .crcInit => {}
  | .crcUpdb _ => { crcr := true }
  | .crcFinal => { crcr := true }
  | .crcCalc => { ibuf := true }
  | .tcFrombytes _ => {}
  | .tcFromtext => { ibuf := true }
  | .tcRaw => { wtc := true }
  | .tcTotext => { wtc := true }
  | .tcIscrit => { wtc := true }
  | .tcIspub => { wtc := true }
  | .tcIsrsv => { wtc := true }
  | .tcIssafe => { wtc := true }
  | .tcIsvalid => { wtc := true }
  | .chEncode => { wtc := true, ibuf := true }
  | .chDecode _ => { ibuf := true }
  | .chSerialize => { wch := true }
  | .chAstext => { wch := true }
  | .chLength => { wch := true }
  | .chType => { wch := true }
  | .chData => { wch := true }
  | .chCrc => { wch := true }
  | .ctParse => { ibuf := true }
  | .ctAppend => { wch := true, clist := true }
  | .ctRemove => { clist := true, ibuf := true }
  | .ctFind => { clist := true, ibuf := true }
  | .ctSerialize => { clist := true }
  | .ctDescribe => { clist := true }

/-- Two states agree on the fields of `r` and on the parameters. -/
structure AgreeOn (r : Reads) (s u : State) : Prop where
  crcr : r.crcr = true → s.crcr = u.crcr
  wtc : r.wtc = true → s.wtc = u.wtc
  wch : r.wch = true → s.wch = u.wch
  clist : r.clist = true → s.clist = u.clist
  loaded : r.clist = true → s.loaded = u.loaded
  ibuf : r.ibuf = true → s.ibuf = u.ibuf
  caps : s.caps = u.caps

/-- `u` with the outcome of `t`: STATUS, and when that is OK the fields of `w`. -/
def withOutcome (w : Writes) (t u : State) : State :=
  if t.status = 0x00 then
    { u with
      crcr := if w.crcr then t.crcr else u.crcr
      wtc := if w.wtc then t.wtc else u.wtc
      wch := if w.wch then t.wch else u.wch
      clist := if w.clist then t.clist else u.clist
      loaded := if w.loaded then t.loaded else u.loaded
      res := if w.res then t.res else u.res
      obuf := if w.obuf then t.obuf else u.obuf
      status := 0x00 }
  else { u with status := t.status }

/-- `t` differs from `s` at most in STATUS and in the fields of `w`. -/
structure ChangesOnly (w : Writes) (s t : State) : Prop where
  crcr : w.crcr = false → t.crcr = s.crcr
  wtc : w.wtc = false → t.wtc = s.wtc
  wch : w.wch = false → t.wch = s.wch
  clist : w.clist = false → t.clist = s.clist
  loaded : w.loaded = false → t.loaded = s.loaded
  res : w.res = false → t.res = s.res
  obuf : w.obuf = false → t.obuf = s.obuf
  ibuf : t.ibuf = s.ibuf
  caps : t.caps = s.caps
  moves : t.moves = s.moves
  replies : t.replies = s.replies

/-- One well-formed UTF-8 sequence, row by row of R170. -/
def Utf8Seq : Bytes → Prop
  | [a] => a.toNat ≤ 0x7F
  | [a, b] => 0xC2 ≤ a.toNat ∧ a.toNat ≤ 0xDF ∧ 0x80 ≤ b.toNat ∧ b.toNat ≤ 0xBF
  | [a, b, c] =>
    (0x80 ≤ c.toNat ∧ c.toNat ≤ 0xBF) ∧
    ((a.toNat = 0xE0 ∧ 0xA0 ≤ b.toNat ∧ b.toNat ≤ 0xBF) ∨
     (0xE1 ≤ a.toNat ∧ a.toNat ≤ 0xEC ∧ 0x80 ≤ b.toNat ∧ b.toNat ≤ 0xBF) ∨
     (a.toNat = 0xED ∧ 0x80 ≤ b.toNat ∧ b.toNat ≤ 0x9F) ∨
     (0xEE ≤ a.toNat ∧ a.toNat ≤ 0xEF ∧ 0x80 ≤ b.toNat ∧ b.toNat ≤ 0xBF))
  | [a, b, c, d] =>
    (0x80 ≤ c.toNat ∧ c.toNat ≤ 0xBF) ∧ (0x80 ≤ d.toNat ∧ d.toNat ≤ 0xBF) ∧
    ((a.toNat = 0xF0 ∧ 0x90 ≤ b.toNat ∧ b.toNat ≤ 0xBF) ∨
     (0xF1 ≤ a.toNat ∧ a.toNat ≤ 0xF3 ∧ 0x80 ≤ b.toNat ∧ b.toNat ≤ 0xBF) ∨
     (a.toNat = 0xF4 ∧ 0x80 ≤ b.toNat ∧ b.toNat ≤ 0x8F))
  | _ => False

/-- Valid UTF-8: a concatenation of zero or more well-formed sequences (R170). -/
def Utf8Text (s : Bytes) : Prop := ∃ parts : List Bytes, s = parts.flatten ∧ ∀ p ∈ parts, Utf8Seq p

/-- `m'` is `m` with exactly one bit of byte `k` inverted. -/
def FlipsOneBit (m m' : Bytes) (k : Nat) : Prop :=
  ∃ (b : Byte) (j : Nat), j < 8 ∧ m[k]? = some b ∧ m' = m.set k (b ^^^ BitVec.twoPow 8 j)

/-- The commands R55 lists as reading only. -/
def readsOnly : List Instr :=
  [.tcIscrit, .tcIspub, .tcIsrsv, .tcIssafe, .tcIsvalid, .tcRaw, .tcTotext, .chSerialize, .chAstext,
   .chLength, .chData, .chCrc, .crcFinal, .crcCalc, .ctFind, .ctSerialize, .ctDescribe]

/-- The commands that read WTC (R85). -/
def readsWtc : List Instr :=
  [.tcRaw, .tcTotext, .tcIscrit, .tcIspub, .tcIsrsv, .tcIssafe, .tcIsvalid, .chEncode]

/-- The commands that read WCH (R85). -/
def readsWch : List Instr :=
  [.chSerialize, .chAstext, .chLength, .chType, .chData, .chCrc, .ctAppend]

/-- The commands that need a loaded container (R190). -/
def needsLoaded : List Instr := [.ctAppend, .ctRemove, .ctFind, .ctSerialize, .ctDescribe]

end Sys2Proof.Machine
end

