-- ==== Sys2Proof/Certificates/Slice0/Obligations.lean ====
section
/-! DEFINITION. The statements for the provers, each from the rules of spec/ its docstring names. A
right side `.next { s with ... }` is a whole next state, so it says the frame as well: every field it
does not name is unchanged. -/

open Sys2Proof Sys2Proof.Machine

-- Encoding

/-- R82: the 27 words of the opcode map decode to their commands, whatever CMD_ARG holds in the fields
the command ignores, and every other CMD_OP decodes to no command. -/
def Obligations.DecodeFollowsTheOpcodeMap : Prop :=
  opcodeMap.length = 27 ∧
  (∀ p ∈ opcodeMap, ∀ arg : Word, decode (cmdWord p.1 arg) = .ok (p.2 arg)) ∧
  ∀ (op : Byte) (arg : Word), (∀ p ∈ opcodeMap, p.1 ≠ op) →
    decode (cmdWord op arg) = .error (.undefinedOp op)

/-- R86: exactly the listed CMD_OP values are undefined, and presenting one is REFUSED with
UNDEFINED_OP: the step writes STATUS <- 0x17 and nothing else. -/
def Obligations.UndefinedOpcodesAreRefused : Prop :=
  (∀ (op : Byte) (arg : Word),
    UndefinedOpcode op ↔ ∀ i, decode (cmdWord op arg) ≠ .ok i) ∧
  ∀ (s : State) (op : Byte) (arg : Word) (ms : List HostMove),
    UndefinedOpcode op → s.moves = .cmd (cmdWord op arg) :: ms →
      step s = .next { s with moves := ms, status := 0x17 }

/-- R83: each command takes from CMD_ARG the bits the table names and no others: words with the same
CMD_OP that agree on them decode alike, and CRC.UPDB, TC.FROMBYTES and CH.DECODE take theirs unscaled
and zero-extended. -/
def Obligations.UnusedArgumentBitsAreIgnored : Prop :=
  (∀ arg : Word,
    decode (cmdWord 0x01 arg) = .ok (.crcUpdb (BitVec.ofNat 8 (arg.toNat % 256))) ∧
    decode (cmdWord 0x10 arg) = .ok (.tcFrombytes arg) ∧
    decode (cmdWord 0x21 arg) = .ok (.chDecode arg)) ∧
  ∀ (op : Byte) (arg arg' : Word), op ≠ 0x01 → op ≠ 0x10 → op ≠ 0x21 →
    decode (cmdWord op arg) = decode (cmdWord op arg')

/-- Decode and encode agree on every command and every operand value. -/
def Obligations.DecodeOfEncodeIsTheCommand : Prop :=
  ∀ i : Instr, Instr.wf i = true → decode (encode i) = .ok i

/-- The other direction: a word decodes to a command exactly when it is that command's word up to the
bits of CMD_ARG the command ignores. -/
def Obligations.DecodedWordsAreEncodingsUpToIgnoredBits : Prop :=
  ∀ (w : CmdWord) (i : Instr),
    decode w = .ok i ↔ w &&& cmdWord 0xFF (argMask i) = encode i

/-- Words written out from R80, R82 and 95_test_vectors.md decode to the commands they stand for. -/
def Obligations.ListedWordsDecode : Prop :=
  decode 0x0100000049 = .ok (.crcUpdb 0x49) ∧ decode 0x01FFFFFF49 = .ok (.crcUpdb 0x49) ∧
  decode 0x1052755374 = .ok (.tcFrombytes 0x52755374) ∧ decode 0x1700000000 = .ok .tcIssafe ∧
  decode 0x2100000015 = .ok (.chDecode 21) ∧ decode 0x2700000000 = .ok .chCrc ∧
  decode 0x3000000000 = .ok .ctParse ∧ decode 0x3500001234 = .ok .ctDescribe ∧
  decode 0x9900001234 = .error (.undefinedOp 0x99)

-- Steps, the host, reset

/-- A step whose next move (MODEL'S CHOICE: the list `moves`, log entry 1) presents a word that decodes to `i` is `exec i`, with that move taken off the
list first. -/
def Obligations.StepRunsThePresentedCommand : Prop :=
  ∀ (s : State) (w : CmdWord) (i : Instr) (ms : List HostMove),
    decode w = .ok i → Instr.wf i = true → s.moves = .cmd w :: ms →
      step s = exec i { s with moves := ms }

/-- The host's actions other than H.CMD (R268). MODEL'S CHOICE, not the spec's: the lists `moves` and
`replies` and that a reset keeps them (log entry 1), that it keeps the capacities (log entry 2), the
fault (log entry 6) and the waiting step (log entry 7). H.WRIBUF replaces IBUF whole when the bytes fit
CAP_BUF and stops otherwise; H.RDOBUF and H.RDREG change nothing in the block and give the listed
value; reset leaves the reset state; with no move the block waits. -/
def Obligations.HostActionsTouchOnlyWhatTheyName : Prop :=
  (∀ (s : State) (bs : Bytes) (ms : List HostMove), s.moves = .wribuf bs :: ms →
    (FitsBuf s.caps bs.length → ∃ t, step s = .next t ∧ t = { s with moves := ms, ibuf := bs } ∧
      t.ilen = bs.length) ∧
    (¬ FitsBuf s.caps bs.length → step s = .fault .wribufPastCapBuf)) ∧
  (∀ (s : State) (ms : List HostMove), s.moves = .rdobuf :: ms →
    step s = .next { s with moves := ms, replies := s.replies ++ [.obuf s.obuf] }) ∧
  (∀ (s : State) (r : HostReg) (ms : List HostMove), s.moves = .rdreg r :: ms →
    ∃ v : Nat, step s = .next { s with moves := ms, replies := s.replies ++ [.reg r v] } ∧
      (r = .status → v = s.status.toNat) ∧ (r = .res → v = s.res.toNat) ∧
      (r = .ilen → v = s.ibuf.length) ∧ (r = .olen → v = s.obuf.length) ∧
      (r = .loaded → v = if s.loaded = true then 1 else 0) ∧
      (r = .nchunks → v = s.clist.length) ∧ (r = .busy → v = 0)) ∧
  (∀ (s : State) (ms : List HostMove), s.moves = .reset :: ms →
    step s = .next { State.reset with caps := s.caps, moves := ms, replies := s.replies }) ∧
  ∀ s : State, s.moves = [] → step s = .next s

/-- R260: reset puts every piece of the block's state to its tabled value, at the start and whenever the
host resets it. -/
def Obligations.ResetLeavesTheTabledValues : Prop :=
  ∀ t : State, (t = State.reset ∨ ∃ (s : State) (ms : List HostMove),
      s.moves = .reset :: ms ∧ step s = .next t) →
    t.crcr = 0xFFFFFFFF ∧ t.wtc = none ∧ t.wch = none ∧ t.res = 0 ∧ t.status = 0x00 ∧
    t.loaded = false ∧ t.clist = [] ∧ t.nchunks = 0 ∧ t.ibuf = [] ∧ t.ilen = 0 ∧ t.obuf = [] ∧
    t.olen = 0 ∧ t.busy = 0

-- Outcomes and the commit rule

/-- Every command in every state, reachable or not, has a next state: no command faults, none is
refused by the model (93_implementation_defined.md, end of Part 1). That the outcome REFUSED is a next
state is the MODEL'S CHOICE (log entry 5). -/
def Obligations.EveryCommandHasANextState : Prop :=
  ∀ (i : Instr) (s : State), ∃ t, exec i s = .next t

/-- R90: whatever word is presented, the STATUS byte after it is one of the twelve listed. -/
def Obligations.StatusIsAlwaysAListedByte : Prop :=
  ∀ (w : CmdWord) (s t : State), runCmd w s = .next t → t.status ∈ legalStatus

/-- The commands that can end with each error kind or refusal (60_exceptions.md sections 1 and 3). -/
def Obligations.OutcomesComeFromTheirCommands : Prop :=
  ∀ (i : Instr) (s t : State), exec i s = .next t →
    (t.status = 0x01 → i = .ctParse) ∧
    (t.status = 0x02 ∨ t.status = 0x03 ∨ t.status = 0x05 →
      i = .ctParse ∨ ∃ off, i = .chDecode off) ∧
    (t.status = 0x04 → (∃ w, i = .tcFrombytes w) ∨ i = .tcFromtext ∨ (∃ off, i = .chDecode off) ∨
      i = .ctParse ∨ i = .chAstext) ∧
    (t.status = 0x06 → i = .ctRemove ∨ i = .ctFind) ∧
    t.status ≠ 0x17 ∧
    (t.status = 0x27 → (i ∈ readsWtc ∧ s.wtc = none) ∨ (i ∈ readsWch ∧ s.wch = none)) ∧
    (t.status = 0x37 → i ∈ needsLoaded ∧ s.loaded = false) ∧
    (t.status = 0x47 → i ∈ [Instr.tcTotext, .chSerialize, .chAstext, .chData, .ctParse, .ctAppend,
      .ctSerialize, .ctDescribe]) ∧
    (t.status = 0x57 → i = .chEncode ∧ 0x7FFFFFFF < s.ilen)

/-- All or nothing: an outcome other than OK leaves every field but STATUS as it was. -/
def Obligations.NonOkOutcomeChangesOnlyStatus : Prop :=
  ∀ (i : Instr) (s t : State), exec i s = .next t → t.status ≠ 0x00 →
    t = { s with status := t.status }

/-- The frame of every command: an OK outcome changes STATUS and the fields the table marks "w" for it,
and nothing else; in particular no command writes IBUF. -/
def Obligations.OkOutcomeWritesOnlyItsColumns : Prop :=
  ∀ (i : Instr) (s t : State), exec i s = .next t → ChangesOnly (writesOf i) s t

/-- Nothing but the fields the table marks "r" for a command has influence on it: run in two states that
agree on those fields and on the parameters, it ends in both with the same STATUS and, when that is OK,
with the same value in every field marked "w"; everything else stays as each state had it. -/
def Obligations.UnreadFieldsDoNotMatter : Prop :=
  ∀ (i : Instr) (s u t : State), AgreeOn (readsOf i) s u → exec i s = .next t →
    exec i u = .next (withOutcome (writesOf i) t u)

/-- The commands that only read give the same result when repeated. -/
def Obligations.ReadingTwiceGivesTheSame : Prop :=
  ∀ i ∈ readsOnly, ∀ s t : State, exec i s = .next t → exec i t = .next t

/-- A missing operand ends the command before any other check (60_exceptions.md section 4): NO_OPERAND
first, then NOT_LOADED. -/
def Obligations.MissingOperandIsRefusedFirst : Prop :=
  (∀ i ∈ readsWtc, ∀ s : State, s.wtc = none → exec i s = .next { s with status := 0x27 }) ∧
  (∀ i ∈ readsWch, ∀ s : State, s.wch = none → exec i s = .next { s with status := 0x27 }) ∧
  ∀ i ∈ needsLoaded, ∀ s : State, s.loaded = false → (i = .ctAppend → s.wch ≠ none) →
    exec i s = .next { s with status := 0x37 }

/-- Nothing but reset clears LOADED, and nothing but CT.PARSE with outcome OK sets it. -/
def Obligations.OnlyParseSetsLoaded : Prop :=
  ∀ (i : Instr) (s t : State), exec i s = .next t →
    (s.loaded = true → t.loaded = true) ∧
    (s.loaded = false → (t.loaded = true ↔ i = .ctParse ∧ t.status = 0x00))

/-- With unbounded buffers and a list and an input too short to pass CAP_CHUNKS, no command is REFUSED
with CAPACITY. -/
def Obligations.UnboundedCapacitiesNeverRefuse : Prop :=
  ∀ (i : Instr) (s t : State), s.caps.buf = none → s.caps.store = none →
    s.clist.length < s.caps.chunks → s.ibuf.length < 12 * s.caps.chunks →
    exec i s = .next t → t.status ≠ 0x47

-- Byte order

/-- R12: be32 puts the most significant byte first, from_be32 is positional, and they are inverses. -/
def Obligations.BigEndianConversionsAreInverse : Prop :=
  (∀ v : Word, be32 v = [BitVec.ofNat 8 (v.toNat / 2 ^ 24), BitVec.ofNat 8 (v.toNat / 2 ^ 16 % 256),
      BitVec.ofNat 8 (v.toNat / 2 ^ 8 % 256), BitVec.ofNat 8 (v.toNat % 256)]) ∧
  (∀ s0 s1 s2 s3 : Byte, (fromBe32 s0 s1 s2 s3).toNat =
      2 ^ 24 * s0.toNat + 2 ^ 16 * s1.toNat + 2 ^ 8 * s2.toNat + s3.toNat) ∧
  (∀ v : Word, wordOf (be32 v) = some v) ∧
  ∀ s0 s1 s2 s3 : Byte, be32 (fromBe32 s0 s1 s2 s3) = [s0, s1, s2, s3]

-- The CRC unit

/-- R121: the 256 words of CRC_TAB are what eight bit steps make of the index. -/
def Obligations.CrcTableHoldsTheFormulasValues : Prop :=
  crcTab.length = 256 ∧
  ∀ n : Nat, n < 256 → crcTab[n]? = some (bitSteps 8 (BitVec.ofNat 32 n))

/-- R123: the byte step in table form equals the bit-serial one, for every register and byte. -/
def Obligations.TableByteStepEqualsBitSerial : Prop :=
  ∀ (c : Word) (b : Byte), crcByteTab c b = some (crcByte c b)

/-- R124 and R128: CRC.INIT sets CRCR to 0xFFFFFFFF; CRC.FINAL puts CRCR XOR 0xFFFFFFFF in RES and
leaves CRCR. -/
def Obligations.CrcInitAndFinalAlwaysComplete : Prop :=
  CodedAs 0x00 .crcInit ∧ CodedAs 0x02 .crcFinal ∧
  ∀ s : State,
    exec .crcInit s = .next { s with crcr := 0xFFFFFFFF, status := 0x00 } ∧
    exec .crcFinal s = .next { s with res := s.crcr ^^^ 0xFFFFFFFF, status := 0x00 }

/-- R125: CRC.UPDB folds the byte CMD_ARG[7:0] into CRCR, here by the table form of the byte step. -/
def Obligations.CrcUpdbFoldsItsByte : Prop :=
  (∀ (s : State) (b : Byte), ∃ e : Word,
    crcTab[((s.crcr ^^^ b.setWidth 32) &&& 0xFF).toNat]? = some e ∧
    exec (.crcUpdb b) s = .next { s with crcr := e ^^^ (s.crcr >>> 8), status := 0x00 }) ∧
  ∀ (s : State) (arg : Word),
    runCmd (cmdWord 0x01 arg) s = exec (.crcUpdb (arg.setWidth 8)) s

/-- R129: streaming the bytes of `x ++ y` and reading out leaves their checksum in RES; the register
after `x` alone is the checksum of `x` before the final XOR. -/
def Obligations.StreamingGivesTheChecksum : Prop :=
  ∀ (x y : Bytes) (s : State),
    execAll (.crcInit :: (x ++ y).map .crcUpdb ++ [.crcFinal]) s =
      .next { s with crcr := crc32 (x ++ y) ^^^ 0xFFFFFFFF, res := crc32 (x ++ y), status := 0x00 } ∧
    execAll (.crcInit :: x.map .crcUpdb) s =
      .next { s with crcr := crc32 x ^^^ 0xFFFFFFFF, status := 0x00 }

/-- R127: CRC.CALC is CRC.INIT, one CRC.UPDB per byte of IBUF in index order, CRC.FINAL, in one step, and
leaves CRC32(IBUF) in RES. -/
def Obligations.CrcCalcIsTheWholeStream : Prop :=
  CodedAs 0x03 .crcCalc ∧
  ∀ s : State,
    exec .crcCalc s = execAll (.crcInit :: s.ibuf.map .crcUpdb ++ [.crcFinal]) s ∧
    exec .crcCalc s =
      .next { s with crcr := crc32 s.ibuf ^^^ 0xFFFFFFFF, res := crc32 s.ibuf, status := 0x00 }

/-- R131's first sentence: sequences of one length that differ in exactly one bit have different
checksums. -/
def Obligations.OneBitFlipChangesTheChecksum : Prop :=
  ∀ (m m' : Bytes) (k : Nat), FlipsOneBit m m' k → crc32 m' ≠ crc32 m

-- The type-code unit

/-- R142: TC.FROMBYTES takes four letters from CMD_ARG, byte 0 in bits 31:24, into WTC; any other four
bytes are InvalidEncoding and change nothing but STATUS. -/
def Obligations.FromBytesTakesExactlyFourLetters : Prop :=
  (∀ w : Word, decode (cmdWord 0x10 w) = .ok (.tcFrombytes w)) ∧
  ∀ (s : State) (w : Word) (b0 b1 b2 b3 : Byte), be32 w = [b0, b1, b2, b3] →
    (AsciiLetter b0 ∧ AsciiLetter b1 ∧ AsciiLetter b2 ∧ AsciiLetter b3 →
      exec (.tcFrombytes w) s = .next { s with wtc := some ⟨b0, b1, b2, b3⟩, status := 0x00 }) ∧
    (¬ (AsciiLetter b0 ∧ AsciiLetter b1 ∧ AsciiLetter b2 ∧ AsciiLetter b3) →
      exec (.tcFrombytes w) s = .next { s with status := 0x04 })

/-- R143: TC.FROMTEXT takes IBUF when it is exactly four letters; any other text is InvalidEncoding. -/
def Obligations.FromTextTakesExactlyFourLetters : Prop :=
  CodedAs 0x11 .tcFromtext ∧
  ∀ s : State,
    (∀ b0 b1 b2 b3 : Byte, s.ibuf = [b0, b1, b2, b3] →
      AsciiLetter b0 ∧ AsciiLetter b1 ∧ AsciiLetter b2 ∧ AsciiLetter b3 →
      exec .tcFromtext s = .next { s with wtc := some ⟨b0, b1, b2, b3⟩, status := 0x00 }) ∧
    (s.ibuf.length ≠ 4 ∨ (∃ b ∈ s.ibuf, ¬ AsciiLetter b) →
      exec .tcFromtext s = .next { s with status := 0x04 })

/-- R144: TC.RAW packs WTC into RES, byte 0 in bits 31:24. R145: TC.TOTEXT puts the four bytes of WTC in
OBUF, and feeding them back through TC.FROMTEXT gives the same type code. -/
def Obligations.RawAndTextShowTheTypeCode : Prop :=
  CodedAs 0x12 .tcRaw ∧ CodedAs 0x13 .tcTotext ∧
  ∀ s : State,
    (∀ t, s.wtc = some t →
      (∃ r : Word, exec .tcRaw s = .next { s with res := r, status := 0x00 } ∧
        r.toNat = 2 ^ 24 * t.b0.toNat + 2 ^ 16 * t.b1.toNat + 2 ^ 8 * t.b2.toNat + t.b3.toNat) ∧
      (FitsBuf s.caps 4 →
        exec .tcTotext s = .next { s with obuf := [t.b0, t.b1, t.b2, t.b3], status := 0x00 }) ∧
      (¬ FitsBuf s.caps 4 → exec .tcTotext s = .next { s with status := 0x47 }) ∧
      (TypeOk t → ∀ u : State, u.ibuf = [t.b0, t.b1, t.b2, t.b3] →
        exec .tcFromtext u = .next { u with wtc := some t, status := 0x00 })) ∧
    (s.wtc = none →
      exec .tcRaw s = .next { s with status := 0x27 } ∧
      exec .tcTotext s = .next { s with status := 0x27 })

/-- R147 to R151: the five property commands put 1 or 0 in RES by the case of one byte of WTC; the
fourth is 1 when its byte is not uppercase (90_conflicts.md C3), and TC.ISVALID is TC.ISRSV. -/
def Obligations.PropertyCommandsTestOneByte : Prop :=
  CodedAs 0x14 .tcIscrit ∧ CodedAs 0x15 .tcIspub ∧ CodedAs 0x16 .tcIsrsv ∧
  CodedAs 0x17 .tcIssafe ∧ CodedAs 0x18 .tcIsvalid ∧
  ∀ s : State,
    (∀ t, s.wtc = some t →
      exec .tcIscrit s = .next { s with res := if UpperLetter t.b0 then 1 else 0, status := 0x00 } ∧
      exec .tcIspub s = .next { s with res := if UpperLetter t.b1 then 1 else 0, status := 0x00 } ∧
      exec .tcIsrsv s = .next { s with res := if UpperLetter t.b2 then 1 else 0, status := 0x00 } ∧
      exec .tcIssafe s = .next { s with res := if UpperLetter t.b3 then 0 else 1, status := 0x00 } ∧
      exec .tcIsvalid s = .next { s with res := if UpperLetter t.b2 then 1 else 0, status := 0x00 }) ∧
    (s.wtc = none → ∀ i ∈ [Instr.tcIscrit, .tcIspub, .tcIsrsv, .tcIssafe, .tcIsvalid],
      exec i s = .next { s with status := 0x27 }) ∧
    exec .tcIsvalid s = exec .tcIsrsv s

/-- For a type code each property is bit 5 of its byte: 0 for critical, public and reserved-valid, 1 for
safe to copy. -/
def Obligations.PropertiesOfLettersAreBitFive : Prop :=
  ∀ t : TypeCode, TypeOk t →
    isCritical t = !t.b0.getLsbD 5 ∧ isPublic t = !t.b1.getLsbD 5 ∧
    isReservedBitValid t = !t.b2.getLsbD 5 ∧ isSafeToCopy t = t.b3.getLsbD 5 ∧
    isValid t = isReservedBitValid t

/-- R152: each property is a function of one byte only, and all 16 combinations occur among type
codes. -/
def Obligations.PropertyBitsAreIndependent : Prop :=
  (∀ t u : TypeCode, (t.b0 = u.b0 → isCritical t = isCritical u) ∧
    (t.b1 = u.b1 → isPublic t = isPublic u) ∧
    (t.b2 = u.b2 → isReservedBitValid t = isReservedBitValid u) ∧
    (t.b3 = u.b3 → isSafeToCopy t = isSafeToCopy u)) ∧
  ∀ c p r f : Bool, ∃ t : TypeCode, TypeOk t ∧ isCritical t = c ∧ isPublic t = p ∧
    isReservedBitValid t = r ∧ isSafeToCopy t = f

-- The framer

/-- R163: CH.ENCODE builds the chunk of WTC and IBUF in WCH; a payload over 2^31 - 1 bytes is REFUSED
with LENGTH_RANGE. The chunk satisfies the chunk invariant when WTC holds letters. -/
def Obligations.EncodeBuildsTheChunk : Prop :=
  CodedAs 0x20 .chEncode ∧
  ∀ s : State,
    (∀ t, s.wtc = some t → s.ibuf.length ≤ 0x7FFFFFFF → ∃ c : ChunkRec,
      exec .chEncode s = .next { s with wch := some c, status := 0x00 } ∧
      c.length.toNat = s.ibuf.length ∧ c.type = t ∧ c.data = s.ibuf ∧
      c.crc = crc32 ([t.b0, t.b1, t.b2, t.b3] ++ s.ibuf) ∧ (TypeOk t → ChunkOk c)) ∧
    (∀ t, s.wtc = some t → 0x7FFFFFFF < s.ibuf.length →
      exec .chEncode s = .next { s with status := 0x57 }) ∧
    (s.wtc = none → exec .chEncode s = .next { s with status := 0x27 })

/-- R164: the seven steps of decode on a frame that starts after `pre`, each step's outcome given that the
earlier ones passed. The cases cover every buffer. -/
def Obligations.DecodeReportsTheFirstFailingStep : Prop :=
  ∀ (pre rest : Bytes),
    (rest.length < 4 → decodeAt (pre ++ rest) pre.length = .error .truncated) ∧
    ∀ (len : Word) (body : Bytes), rest = be32 len ++ body →
      (0x7FFFFFFF < len.toNat → decodeAt (pre ++ rest) pre.length = .error .invalidLength) ∧
      (len.toNat ≤ 0x7FFFFFFF → rest.length < 12 + len.toNat →
        decodeAt (pre ++ rest) pre.length = .error .truncated) ∧
      (len.toNat ≤ 0x7FFFFFFF → ∀ (t : TypeCode) (d z : Bytes) (c : Word),
        body = [t.b0, t.b1, t.b2, t.b3] ++ d ++ be32 c ++ z → d.length = len.toNat →
        (¬ TypeOk t → decodeAt (pre ++ rest) pre.length = .error .invalidEncoding) ∧
        (TypeOk t → crc32 ([t.b0, t.b1, t.b2, t.b3] ++ d) ≠ c →
          decodeAt (pre ++ rest) pre.length = .error .crcMismatch) ∧
        (TypeOk t → crc32 ([t.b0, t.b1, t.b2, t.b3] ++ d) = c →
          decodeAt (pre ++ rest) pre.length = .ok (⟨len, t, d, c⟩, 12 + len.toNat)))

/-- R168: (a) decoding the frame of a chunk gives the chunk, whatever stands before and after it; (b) what
decode accepts is exactly the frame of the chunk it returns. -/
def Obligations.DecodeIsTheInverseOfFrame : Prop :=
  (∀ (c : ChunkRec) (pre z : Bytes), ChunkOk c →
    decodeAt (pre ++ frame c ++ z) pre.length = .ok (c, 12 + c.length.toNat)) ∧
  ∀ (buf : Bytes) (off : Nat) (c : ChunkRec) (used : Nat), decodeAt buf off = .ok (c, used) →
    ChunkOk c ∧ used = 12 + c.length.toNat ∧ off + used ≤ buf.length ∧
    frame c = (buf.drop off).take used

/-- R165: CH.DECODE at an offset past ILEN is Truncated, an error of decode is reported, and a sound
frame at the offset goes to WCH with the bytes consumed in RES. -/
def Obligations.DecodeCommandLoadsTheChunk : Prop :=
  (∀ off : Word, decode (cmdWord 0x21 off) = .ok (.chDecode off)) ∧
  ∀ (s : State) (off : Word),
    (s.ibuf.length < off.toNat →
      exec (.chDecode off) s = .next { s with status := 0x02 }) ∧
    (off.toNat ≤ s.ibuf.length → ∀ k, decodeAt s.ibuf off.toNat = .error k →
      k ∈ [.truncated, .invalidLength, .invalidEncoding, .crcMismatch] ∧
      exec (.chDecode off) s = .next { s with status := errorByte k }) ∧
    ∀ (pre z : Bytes) (c : ChunkRec), s.ibuf = pre ++ frame c ++ z → pre.length = off.toNat →
      ChunkOk c → ∃ r : Word, r.toNat = 12 + c.length.toNat ∧
        exec (.chDecode off) s = .next { s with wch := some c, res := r, status := 0x00 }

/-- A buffer that ends before the frame does fails with a length-related error, and what decode answers
for a whole frame does not depend on the bytes after it. -/
def Obligations.ShortBuffersGiveLengthErrors : Prop :=
  (∀ (buf : Bytes) (off : Nat), off ≤ buf.length → buf.length - off < 12 →
    decodeAt buf off = .error .truncated ∨ decodeAt buf off = .error .invalidLength) ∧
  (∀ (pre body : Bytes) (len : Word), 4 + body.length < 12 + len.toNat →
    decodeAt (pre ++ be32 len ++ body) pre.length =
      .error (if 0x7FFFFFFF < len.toNat then .invalidLength else .truncated)) ∧
  ∀ (buf z : Bytes) (off : Nat) (c : ChunkRec) (used : Nat), decodeAt buf off = .ok (c, used) →
    decodeAt (buf.take (off + used) ++ z) off = .ok (c, used)

/-- One inverted bit in the payload or the stored CRC of a chunk's frame makes decode fail with
CrcMismatch; in the type field it gives InvalidEncoding when the byte stops being a letter and
CrcMismatch when it does not. -/
def Obligations.TamperedFrameIsRejected : Prop :=
  ∀ (c : ChunkRec) (f : Bytes) (k : Nat), ChunkOk c → FlipsOneBit (frame c) f k →
    (8 ≤ k → k < 12 + c.length.toNat → decodeAt f 0 = .error .crcMismatch) ∧
    (4 ≤ k → k < 8 → ∀ b, f[k]? = some b →
      (AsciiLetter b → decodeAt f 0 = .error .crcMismatch) ∧
      (¬ AsciiLetter b → decodeAt f 0 = .error .invalidEncoding))

/-- The source's round trip as commands: encode, serialize, put the output in IBUF, decode at 0: all three
end OK, WCH is the chunk encode built and RES its frame's size. -/
def Obligations.EncodeSerializeDecodeRoundTrip : Prop :=
  ∀ (s : State) (t : TypeCode), s.wtc = some t → TypeOk t → s.ibuf.length ≤ 0x7FFFFFFF →
    FitsBuf s.caps (12 + s.ibuf.length) → ∃ (c : ChunkRec) (u v : State),
      exec .chEncode s = .next u ∧ u.status = 0x00 ∧ u.wch = some c ∧ c.data = s.ibuf ∧ c.type = t ∧
      exec .chSerialize u = .next v ∧ v.status = 0x00 ∧ v.obuf = frame c ∧
      exec (.chDecode 0) { v with ibuf := v.obuf } =
        .next { v with ibuf := v.obuf, wch := some c, res := BitVec.ofNat 32 (12 + s.ibuf.length),
                       status := 0x00 }

/-- R167: CH.SERIALIZE puts the frame of WCH in OBUF when 12 + length bytes fit CAP_BUF. -/
def Obligations.SerializeWritesTheFrame : Prop :=
  CodedAs 0x22 .chSerialize ∧
  ∀ s : State,
    (∀ c, s.wch = some c → FitsBuf s.caps (12 + c.length.toNat) →
      exec .chSerialize s = .next { s with
        obuf := be32 c.length ++ [c.type.b0, c.type.b1, c.type.b2, c.type.b3] ++ c.data ++ be32 c.crc,
        status := 0x00 }) ∧
    (∀ c, s.wch = some c → ¬ FitsBuf s.caps (12 + c.length.toNat) →
      exec .chSerialize s = .next { s with status := 0x47 }) ∧
    (∀ c t, s.wch = some c → ChunkOk c → exec .chSerialize s = .next t → t.status = 0x00 →
      t.olen = 12 + c.length.toNat) ∧
    (s.wch = none → exec .chSerialize s = .next { s with status := 0x27 })

/-- R171 to R174: the accessors of WCH. For a sound chunk CH.LENGTH's value is the number of payload
bytes, which is OLEN after CH.DATA. -/
def Obligations.AccessorsReadTheChunk : Prop :=
  CodedAs 0x24 .chLength ∧ CodedAs 0x25 .chType ∧ CodedAs 0x26 .chData ∧ CodedAs 0x27 .chCrc ∧
  ∀ s : State,
    (∀ c, s.wch = some c →
      exec .chLength s = .next { s with res := c.length, status := 0x00 } ∧
      exec .chCrc s = .next { s with res := c.crc, status := 0x00 } ∧
      (∃ r : Word, exec .chType s = .next { s with wtc := some c.type, res := r, status := 0x00 } ∧
        be32 r = [c.type.b0, c.type.b1, c.type.b2, c.type.b3]) ∧
      (FitsBuf s.caps c.length.toNat →
        exec .chData s = .next { s with obuf := c.data, status := 0x00 }) ∧
      (¬ FitsBuf s.caps c.length.toNat → exec .chData s = .next { s with status := 0x47 }) ∧
      (ChunkOk c → c.data.length = c.length.toNat ∧ c.length.toNat ≤ 0x7FFFFFFF)) ∧
    (s.wch = none → ∀ i ∈ [Instr.chLength, .chCrc, .chType, .chData],
      exec i s = .next { s with status := 0x27 })

/-- R170: the machine's test accepts exactly the concatenations of well-formed sequences. -/
def Obligations.Utf8TestAcceptsExactlyWellFormedText : Prop :=
  ∀ s : Bytes, utf8Valid s = true ↔ Utf8Text s

/-- R169: CH.ASTEXT puts the payload in OBUF when it is valid UTF-8 and fits, reports InvalidEncoding when
it is not, and tests that before the capacity. -/
def Obligations.AsTextNeedsValidUtf8 : Prop :=
  CodedAs 0x23 .chAstext ∧
  ∀ s : State,
    (∀ c, s.wch = some c → Utf8Text c.data → FitsBuf s.caps c.length.toNat →
      exec .chAstext s = .next { s with obuf := c.data, status := 0x00 }) ∧
    (∀ c, s.wch = some c → ¬ Utf8Text c.data →
      exec .chAstext s = .next { s with status := 0x04 }) ∧
    (∀ c, s.wch = some c → Utf8Text c.data → ¬ FitsBuf s.caps c.length.toNat →
      exec .chAstext s = .next { s with status := 0x47 }) ∧
    (∀ c t, s.wch = some c → ChunkOk c → exec .chAstext s = .next t → t.status = 0x00 →
      t.olen = c.length.toNat) ∧
    (s.wch = none → exec .chAstext s = .next { s with status := 0x27 })

/-- In every state that meets the invariant the capacity tests of CH.ASTEXT, CH.DATA and TC.TOTEXT never
fire. -/
def Obligations.ViewsOfAChunkAlwaysFit : Prop :=
  ∀ (s t : State) (i : Instr), Inv s → i ∈ [Instr.chAstext, .chData, .tcTotext] →
    exec i s = .next t → t.status ≠ 0x47

-- The container

/-- R196: the serialized form is as long as the lengths say. -/
def Obligations.WireLengthIsTheSumOfFrames : Prop :=
  ∀ cs : List ChunkRec, (∀ c ∈ cs, ChunkOk c) → (wire cs).length = serializedLength cs

/-- Parse accepts exactly the buffers that are the wire form of sound chunks, and answers those chunks:
the wire format is uniquely decodable. -/
def Obligations.ParseAcceptsExactlyWireForms : Prop :=
  ∀ (buf : Bytes) (cs : List ChunkRec),
    parse buf = .ok cs ↔ buf = wire cs ∧ ∀ c ∈ cs, ChunkOk c

/-- The loop of parse: at a cursor inside the buffer it decodes one frame and goes on after it, and it
ends at the end of the buffer; the rounds it is given beyond the bytes left do not matter. -/
def Obligations.ParseLoopDecodesFrameByFrame : Prop :=
  ∀ (buf : Bytes) (n cur : Nat), buf.length ≤ cur + n →
    (cur < buf.length → ∀ k, decodeAt buf cur = .error k → parseFrom buf n cur = .error k) ∧
    (cur < buf.length → ∀ c used, decodeAt buf cur = .ok (c, used) →
      cur + 12 ≤ cur + used ∧ cur + used ≤ buf.length ∧
      parseFrom buf n cur = match parseFrom buf n (cur + used) with
        | .error k => .error k
        | .ok cs => .ok (c :: cs)) ∧
    (buf.length ≤ cur → parseFrom buf n cur = .ok [])

/-- R192, R194 and R235: CT.PARSE on every input buffer. A buffer that does not begin with SIG is
InvalidSignature; after sound frames the first bad one decides; a whole wire form is loaded when it fits
CAP_CHUNKS and CAP_STORE and refused with CAPACITY when not; the signature alone is the empty
container, under any capacities. -/
def Obligations.ParseCommandIsAllOrNothing : Prop :=
  CodedAs 0x30 .ctParse ∧
  ∀ s : State,
    ((¬ ∃ r : Bytes, s.ibuf = sig ++ r) → exec .ctParse s = .next { s with status := 0x01 }) ∧
    (∀ (cs : List ChunkRec) (rest : Bytes) (k : ErrorKind), (∀ c ∈ cs, ChunkOk c) → rest ≠ [] →
      s.ibuf = wire cs ++ rest → decodeAt rest 0 = .error k →
      exec .ctParse s = .next { s with status := errorByte k }) ∧
    (∀ cs : List ChunkRec, (∀ c ∈ cs, ChunkOk c) → s.ibuf = wire cs →
      (FitsList s.caps cs → exec .ctParse s = .next { s with
        clist := cs, loaded := true, res := BitVec.ofNat 32 cs.length, status := 0x00 }) ∧
      (¬ FitsList s.caps cs → exec .ctParse s = .next { s with status := 0x47 })) ∧
    (s.ibuf = [137, 80, 78, 71, 13, 10, 26, 10] → exec .ctParse s = .next { s with
      clist := [], loaded := true, res := 0, status := 0x00 })

/-- R197: CT.APPEND puts a copy of WCH at the end of the list and the new count in RES. -/
def Obligations.AppendAddsAtTheEnd : Prop :=
  CodedAs 0x31 .ctAppend ∧
  ∀ s : State,
    (∀ c, s.wch = some c → s.loaded = true →
      (FitsList s.caps (s.clist ++ [c]) → exec .ctAppend s = .next { s with
        clist := s.clist ++ [c], res := BitVec.ofNat 32 (s.clist.length + 1), status := 0x00 }) ∧
      (¬ FitsList s.caps (s.clist ++ [c]) → exec .ctAppend s = .next { s with status := 0x47 })) ∧
    (∀ c, s.wch = some c → s.loaded = false → exec .ctAppend s = .next { s with status := 0x37 }) ∧
    (s.wch = none → exec .ctAppend s = .next { s with status := 0x27 })

/-- R198 and R199: CT.REMOVE takes out the first chunk whose type is exactly the text in IBUF and puts
its index in RES; a text that is no chunk's type, of any length, is NotFound. -/
def Obligations.RemoveTakesTheFirstMatch : Prop :=
  CodedAs 0x32 .ctRemove ∧
  ∀ s : State,
    (s.loaded = true → ∀ (pre post : List ChunkRec) (c : ChunkRec), s.clist = pre ++ c :: post →
      s.ibuf = [c.type.b0, c.type.b1, c.type.b2, c.type.b3] → (∀ d ∈ pre, d.type ≠ c.type) →
      exec .ctRemove s = .next { s with
        clist := pre ++ post, res := BitVec.ofNat 32 pre.length, status := 0x00 }) ∧
    (s.loaded = true → (∀ d ∈ s.clist, s.ibuf ≠ [d.type.b0, d.type.b1, d.type.b2, d.type.b3]) →
      exec .ctRemove s = .next { s with status := 0x06 }) ∧
    (s.loaded = false → exec .ctRemove s = .next { s with status := 0x37 })

/-- R200: CT.FIND copies the first chunk whose type is the text in IBUF to WCH and its index to RES; with
none it is NotFound. CLIST is never changed. -/
def Obligations.FindCopiesTheFirstMatch : Prop :=
  CodedAs 0x33 .ctFind ∧
  ∀ s : State,
    (s.loaded = true → ∀ (pre post : List ChunkRec) (c : ChunkRec), s.clist = pre ++ c :: post →
      s.ibuf = [c.type.b0, c.type.b1, c.type.b2, c.type.b3] → (∀ d ∈ pre, d.type ≠ c.type) →
      exec .ctFind s = .next { s with
        wch := some c, res := BitVec.ofNat 32 pre.length, status := 0x00 }) ∧
    (s.loaded = true → (∀ d ∈ s.clist, s.ibuf ≠ [d.type.b0, d.type.b1, d.type.b2, d.type.b3]) →
      exec .ctFind s = .next { s with status := 0x06 }) ∧
    (s.loaded = false → exec .ctFind s = .next { s with status := 0x37 })

/-- R201: CT.SERIALIZE puts the signature and the frames in list order in OBUF when the serialized length
fits CAP_BUF; of a list that parse answered for a buffer it puts back that buffer. -/
def Obligations.SerializeWritesTheWireForm : Prop :=
  CodedAs 0x34 .ctSerialize ∧
  ∀ s : State,
    (s.loaded = true → FitsBuf s.caps (serializedLength s.clist) →
      exec .ctSerialize s = .next { s with
        obuf := [137, 80, 78, 71, 13, 10, 26, 10] ++ (s.clist.map frame).flatten, status := 0x00 }) ∧
    (s.loaded = true → FitsBuf s.caps (serializedLength s.clist) → ∀ buf : Bytes,
      parse buf = .ok s.clist → exec .ctSerialize s = .next { s with obuf := buf, status := 0x00 }) ∧
    (s.loaded = true → ¬ FitsBuf s.caps (serializedLength s.clist) →
      exec .ctSerialize s = .next { s with status := 0x47 }) ∧
    (∀ t, (∀ c ∈ s.clist, ChunkOk c) → exec .ctSerialize s = .next t → t.status = 0x00 →
      t.olen = serializedLength s.clist) ∧
    (s.loaded = false → exec .ctSerialize s = .next { s with status := 0x37 })

/-- R202: CT.DESCRIBE puts the text of DESCRIBE_FMT in OBUF when it fits. The format is open: the
statement holds for any, and the text is made from the signature and each chunk's type, length and crc
alone, so two lists that agree on those give the same text. -/
def Obligations.DescribeDependsOnHeadersAlone : Prop :=
  CodedAs 0x35 .ctDescribe ∧
  (∀ s : State, s.loaded = true → ∀ text : Bytes,
    text = Config.describeFmt [137, 80, 78, 71, 13, 10, 26, 10]
      (s.clist.map fun c => (c.type, c.length, c.crc)) →
    (FitsBuf s.caps text.length →
      exec .ctDescribe s = .next { s with obuf := text, status := 0x00 }) ∧
    (¬ FitsBuf s.caps text.length → exec .ctDescribe s = .next { s with status := 0x47 })) ∧
  (∀ s : State, s.loaded = false → exec .ctDescribe s = .next { s with status := 0x37 }) ∧
  ∀ (s t : State) (cs : List ChunkRec),
    cs.map (fun c => (c.type, c.length, c.crc)) = s.clist.map (fun c => (c.type, c.length, c.crc)) →
    exec .ctDescribe s = .next t →
    exec .ctDescribe { s with clist := cs } = .next { t with clist := cs }

/-- R203: (a) serializing right after an accepted parse gives back the buffer byte for byte; (b) parsing
what was serialized gives back the same list, and its length is the serialized length. Both while no capacity is exceeded. -/
def Obligations.ParseAndSerializeRoundTrip : Prop :=
  (∀ s t : State, exec .ctParse s = .next t → t.status = 0x00 → FitsBuf s.caps s.ibuf.length →
    exec .ctSerialize t = .next { t with obuf := s.ibuf, status := 0x00 }) ∧
  ∀ s t : State, (∀ c ∈ s.clist, ChunkOk c) → FitsList s.caps s.clist →
    exec .ctSerialize s = .next t → t.status = 0x00 → t.olen = serializedLength s.clist ∧
    exec .ctParse { t with ibuf := t.obuf } = .next { t with
      ibuf := t.obuf, clist := s.clist, loaded := true,
      res := BitVec.ofNat 32 s.clist.length, status := 0x00 }

/-- R204: (a) appending a chunk of a new type and removing that type restores the list; (b) with the type
already there the removal takes the earliest and leaves the appended chunk last. -/
def Obligations.AppendThenRemoveByType : Prop :=
  ∀ (s t : State) (c : ChunkRec), s.wch = some c → exec .ctAppend s = .next t → t.status = 0x00 →
    ((∀ d ∈ s.clist, d.type ≠ c.type) →
      exec .ctRemove { t with ibuf := typeBytes c.type } = .next { t with
        ibuf := typeBytes c.type, clist := s.clist, res := BitVec.ofNat 32 s.clist.length,
        status := 0x00 }) ∧
    ∀ (pre post : List ChunkRec) (d : ChunkRec), s.clist = pre ++ d :: post → d.type = c.type →
      (∀ e ∈ pre, e.type ≠ c.type) →
      exec .ctRemove { t with ibuf := typeBytes c.type } = .next { t with
        ibuf := typeBytes c.type, clist := pre ++ post ++ [c], res := BitVec.ofNat 32 pre.length,
        status := 0x00 }

-- Invariants

/-- The state after reset meets the invariant; its capacities are the MODEL'S CHOICE (log entry 2). -/
def Obligations.ResetMeetsTheInvariant : Prop := Inv State.reset

/-- Every step from a state that meets the invariant, reached or not, whatever the host does, leads to a
state that meets it. -/
def Obligations.EveryStepKeepsTheInvariant : Prop :=
  ∀ s t : State, Inv s → step s = .next t → Inv t

/-- No step changes the capacities, and a step stops only on an H.WRIBUF that does not fit CAP_BUF.
MODEL'S CHOICE: the capacities as a field (log entry 2) and the stop (log entry 6). -/
def Obligations.OnlyAnOversizedWriteStops : Prop :=
  ∀ s : State, (∀ t, step s = .next t → t.caps = s.caps) ∧
    ((∀ t, step s ≠ .next t) ↔
      ∃ (bs : Bytes) (ms : List HostMove), s.moves = .wribuf bs :: ms ∧ ¬ FitsBuf s.caps bs.length)

/-- A command is a function of the block, the parameters, CMD_OP and CMD_ARG alone (R7, R8, R20, R36): what
H.CMD makes of the whole state is `Block.step` of the block, with the capacities and the word as its
inputs, and nothing outside the block is read or changed. -/
def Obligations.CommandIsAStepOfTheBlock : Prop :=
  ∀ (w : CmdWord) (s : State),
    runCmd w s = .next { s with toBlock := Block.step s.caps w s.toBlock }
end

