-- ==== Sys2Proof/Laws/State.lean ====
section
/-! SUPPORT. One lemma per field per write of the block, and of what stands around it, so that no proof
unfolds a record update, and the views ILEN, OLEN, NCHUNKS, BUSY. -/

namespace Sys2Proof.Machine

section
variable (b : Block) (v : Word)
@[simp] theorem Block.withCrcr_crcr : (b.withCrcr v).crcr = v := rfl
@[simp] theorem Block.withCrcr_wtc : (b.withCrcr v).wtc = b.wtc := rfl
@[simp] theorem Block.withCrcr_wch : (b.withCrcr v).wch = b.wch := rfl
@[simp] theorem Block.withCrcr_res : (b.withCrcr v).res = b.res := rfl
@[simp] theorem Block.withCrcr_status : (b.withCrcr v).status = b.status := rfl
@[simp] theorem Block.withCrcr_loaded : (b.withCrcr v).loaded = b.loaded := rfl
@[simp] theorem Block.withCrcr_clist : (b.withCrcr v).clist = b.clist := rfl
@[simp] theorem Block.withCrcr_ibuf : (b.withCrcr v).ibuf = b.ibuf := rfl
@[simp] theorem Block.withCrcr_obuf : (b.withCrcr v).obuf = b.obuf := rfl
end

section
variable (b : Block) (t : TypeCode)
@[simp] theorem Block.withWtc_crcr : (b.withWtc t).crcr = b.crcr := rfl
@[simp] theorem Block.withWtc_wtc : (b.withWtc t).wtc = some t := rfl
@[simp] theorem Block.withWtc_wch : (b.withWtc t).wch = b.wch := rfl
@[simp] theorem Block.withWtc_res : (b.withWtc t).res = b.res := rfl
@[simp] theorem Block.withWtc_status : (b.withWtc t).status = b.status := rfl
@[simp] theorem Block.withWtc_loaded : (b.withWtc t).loaded = b.loaded := rfl
@[simp] theorem Block.withWtc_clist : (b.withWtc t).clist = b.clist := rfl
@[simp] theorem Block.withWtc_ibuf : (b.withWtc t).ibuf = b.ibuf := rfl
@[simp] theorem Block.withWtc_obuf : (b.withWtc t).obuf = b.obuf := rfl
end

section
variable (b : Block) (c : ChunkRec)
@[simp] theorem Block.withWch_crcr : (b.withWch c).crcr = b.crcr := rfl
@[simp] theorem Block.withWch_wtc : (b.withWch c).wtc = b.wtc := rfl
@[simp] theorem Block.withWch_wch : (b.withWch c).wch = some c := rfl
@[simp] theorem Block.withWch_res : (b.withWch c).res = b.res := rfl
@[simp] theorem Block.withWch_status : (b.withWch c).status = b.status := rfl
@[simp] theorem Block.withWch_loaded : (b.withWch c).loaded = b.loaded := rfl
@[simp] theorem Block.withWch_clist : (b.withWch c).clist = b.clist := rfl
@[simp] theorem Block.withWch_ibuf : (b.withWch c).ibuf = b.ibuf := rfl
@[simp] theorem Block.withWch_obuf : (b.withWch c).obuf = b.obuf := rfl
end

section
variable (b : Block) (v : Word)
@[simp] theorem Block.withRes_crcr : (b.withRes v).crcr = b.crcr := rfl
@[simp] theorem Block.withRes_wtc : (b.withRes v).wtc = b.wtc := rfl
@[simp] theorem Block.withRes_wch : (b.withRes v).wch = b.wch := rfl
@[simp] theorem Block.withRes_res : (b.withRes v).res = v := rfl
@[simp] theorem Block.withRes_status : (b.withRes v).status = b.status := rfl
@[simp] theorem Block.withRes_loaded : (b.withRes v).loaded = b.loaded := rfl
@[simp] theorem Block.withRes_clist : (b.withRes v).clist = b.clist := rfl
@[simp] theorem Block.withRes_ibuf : (b.withRes v).ibuf = b.ibuf := rfl
@[simp] theorem Block.withRes_obuf : (b.withRes v).obuf = b.obuf := rfl
end

section
variable (b : Block) (v : Byte)
@[simp] theorem Block.withStatus_crcr : (b.withStatus v).crcr = b.crcr := rfl
@[simp] theorem Block.withStatus_wtc : (b.withStatus v).wtc = b.wtc := rfl
@[simp] theorem Block.withStatus_wch : (b.withStatus v).wch = b.wch := rfl
@[simp] theorem Block.withStatus_res : (b.withStatus v).res = b.res := rfl
@[simp] theorem Block.withStatus_status : (b.withStatus v).status = v := rfl
@[simp] theorem Block.withStatus_loaded : (b.withStatus v).loaded = b.loaded := rfl
@[simp] theorem Block.withStatus_clist : (b.withStatus v).clist = b.clist := rfl
@[simp] theorem Block.withStatus_ibuf : (b.withStatus v).ibuf = b.ibuf := rfl
@[simp] theorem Block.withStatus_obuf : (b.withStatus v).obuf = b.obuf := rfl
end

section
variable (b : Block) (l : Bool)
@[simp] theorem Block.withLoaded_crcr : (b.withLoaded l).crcr = b.crcr := rfl
@[simp] theorem Block.withLoaded_wtc : (b.withLoaded l).wtc = b.wtc := rfl
@[simp] theorem Block.withLoaded_wch : (b.withLoaded l).wch = b.wch := rfl
@[simp] theorem Block.withLoaded_res : (b.withLoaded l).res = b.res := rfl
@[simp] theorem Block.withLoaded_status : (b.withLoaded l).status = b.status := rfl
@[simp] theorem Block.withLoaded_loaded : (b.withLoaded l).loaded = l := rfl
@[simp] theorem Block.withLoaded_clist : (b.withLoaded l).clist = b.clist := rfl
@[simp] theorem Block.withLoaded_ibuf : (b.withLoaded l).ibuf = b.ibuf := rfl
@[simp] theorem Block.withLoaded_obuf : (b.withLoaded l).obuf = b.obuf := rfl
end

section
variable (b : Block) (cs : List ChunkRec)
@[simp] theorem Block.withClist_crcr : (b.withClist cs).crcr = b.crcr := rfl
@[simp] theorem Block.withClist_wtc : (b.withClist cs).wtc = b.wtc := rfl
@[simp] theorem Block.withClist_wch : (b.withClist cs).wch = b.wch := rfl
@[simp] theorem Block.withClist_res : (b.withClist cs).res = b.res := rfl
@[simp] theorem Block.withClist_status : (b.withClist cs).status = b.status := rfl
@[simp] theorem Block.withClist_loaded : (b.withClist cs).loaded = b.loaded := rfl
@[simp] theorem Block.withClist_clist : (b.withClist cs).clist = cs := rfl
@[simp] theorem Block.withClist_ibuf : (b.withClist cs).ibuf = b.ibuf := rfl
@[simp] theorem Block.withClist_obuf : (b.withClist cs).obuf = b.obuf := rfl
end

section
variable (b : Block) (bs : Bytes)
@[simp] theorem Block.withIbuf_crcr : (b.withIbuf bs).crcr = b.crcr := rfl
@[simp] theorem Block.withIbuf_wtc : (b.withIbuf bs).wtc = b.wtc := rfl
@[simp] theorem Block.withIbuf_wch : (b.withIbuf bs).wch = b.wch := rfl
@[simp] theorem Block.withIbuf_res : (b.withIbuf bs).res = b.res := rfl
@[simp] theorem Block.withIbuf_status : (b.withIbuf bs).status = b.status := rfl
@[simp] theorem Block.withIbuf_loaded : (b.withIbuf bs).loaded = b.loaded := rfl
@[simp] theorem Block.withIbuf_clist : (b.withIbuf bs).clist = b.clist := rfl
@[simp] theorem Block.withIbuf_ibuf : (b.withIbuf bs).ibuf = bs := rfl
@[simp] theorem Block.withIbuf_obuf : (b.withIbuf bs).obuf = b.obuf := rfl
end

section
variable (b : Block) (bs : Bytes)
@[simp] theorem Block.withObuf_crcr : (b.withObuf bs).crcr = b.crcr := rfl
@[simp] theorem Block.withObuf_wtc : (b.withObuf bs).wtc = b.wtc := rfl
@[simp] theorem Block.withObuf_wch : (b.withObuf bs).wch = b.wch := rfl
@[simp] theorem Block.withObuf_res : (b.withObuf bs).res = b.res := rfl
@[simp] theorem Block.withObuf_status : (b.withObuf bs).status = b.status := rfl
@[simp] theorem Block.withObuf_loaded : (b.withObuf bs).loaded = b.loaded := rfl
@[simp] theorem Block.withObuf_clist : (b.withObuf bs).clist = b.clist := rfl
@[simp] theorem Block.withObuf_ibuf : (b.withObuf bs).ibuf = b.ibuf := rfl
@[simp] theorem Block.withObuf_obuf : (b.withObuf bs).obuf = bs := rfl
end

section
variable (s : State) (b : Block)
@[simp] theorem State.withBlock_toBlock : (s.withBlock b).toBlock = b := rfl
@[simp] theorem State.withBlock_caps : (s.withBlock b).caps = s.caps := rfl
@[simp] theorem State.withBlock_moves : (s.withBlock b).moves = s.moves := rfl
@[simp] theorem State.withBlock_replies : (s.withBlock b).replies = s.replies := rfl
end

section
variable (s : State) (ms : List HostMove)
@[simp] theorem State.withMoves_toBlock : (s.withMoves ms).toBlock = s.toBlock := rfl
@[simp] theorem State.withMoves_caps : (s.withMoves ms).caps = s.caps := rfl
@[simp] theorem State.withMoves_moves : (s.withMoves ms).moves = ms := rfl
@[simp] theorem State.withMoves_replies : (s.withMoves ms).replies = s.replies := rfl
end

section
variable (s : State) (rs : List HostReply)
@[simp] theorem State.withReplies_toBlock : (s.withReplies rs).toBlock = s.toBlock := rfl
@[simp] theorem State.withReplies_caps : (s.withReplies rs).caps = s.caps := rfl
@[simp] theorem State.withReplies_moves : (s.withReplies rs).moves = s.moves := rfl
@[simp] theorem State.withReplies_replies : (s.withReplies rs).replies = rs := rfl
end

@[simp] theorem Block.ilen_eq (b : Block) : b.ilen = b.ibuf.length := rfl
@[simp] theorem Block.olen_eq (b : Block) : b.olen = b.obuf.length := rfl
@[simp] theorem Block.nchunks_eq (b : Block) : b.nchunks = b.clist.length := rfl
@[simp] theorem Block.busy_eq (b : Block) : b.busy = 0 := rfl

end Sys2Proof.Machine
end

