-- ==== Sys2Proof/Laws/Memory.lean ====
section
/-! SUPPORT. Byte spaces: bounded reads, the canonical form of a space as cells, byte order. -/

namespace Sys2Proof.Machine

/-- A bounded read answers exactly when the bytes exist (R11, R56). -/
theorem memRead_eq_some_iff (space d : Bytes) (addr n : Nat) :
    memRead space addr n = some d ↔ addr + n ≤ space.length ∧ (space.drop addr).take n = d := by
  unfold memRead
  split <;> simp [*]

/-- A bounded read past the end answers nothing. -/
theorem memRead_eq_none_iff (space : Bytes) (addr n : Nat) :
    memRead space addr n = none ↔ space.length < addr + n := by
  unfold memRead
  split <;> simp <;> omega

/-- What a bounded read answers has the length asked for. -/
theorem memRead_length (space d : Bytes) (addr n : Nat) (h : memRead space addr n = some d) :
    d.length = n := by
  obtain ⟨hle, rfl⟩ := (memRead_eq_some_iff ..).1 h
  simp
  omega

/-- A bounded read finds the bytes that stand at its address. -/
theorem memRead_append (pre d z : Bytes) (addr n : Nat) (ha : pre.length = addr) (hn : d.length = n) :
    memRead (pre ++ (d ++ z)) addr n = some d := by
  subst ha hn
  rw [memRead_eq_some_iff]
  simp

/-- The cells of a space from address `a` on rise from `a`. -/
theorem cellsFrom_wf (bs : Bytes) : ∀ a, Memory.wf (cellsFrom a bs) = true := by
  induction bs with
  | nil => intro a; rfl
  | cons b bs ih =>
    intro a
    cases bs with
    | nil => rfl
    | cons c cs => simpa [cellsFrom, Memory.wf] using ih (a + 1)

/-- Every byte space is in canonical form, so every buffer of every state is, whatever was written to
it (R28; log entry 4). -/
theorem cells_wf (bs : Bytes) : Memory.wf (Memory.cells bs) = true := cellsFrom_wf bs 0

/-- The buffers are in canonical form after every write and at reset. -/
theorem buffers_wf (s : State) :
    Memory.wf (Memory.cells s.ibuf) = true ∧ Memory.wf (Memory.cells s.obuf) = true :=
  ⟨cells_wf _, cells_wf _⟩

/-- The cells from `a` on list exactly the bytes that exist. -/
theorem mem_cellsFrom_iff (bs : Bytes) (b : Byte) : ∀ a i,
    (i, b) ∈ cellsFrom a bs ↔ a ≤ i ∧ bs[i - a]? = some b := by
  induction bs with
  | nil => simp [cellsFrom]
  | cons c cs ih =>
    intro a i
    simp only [cellsFrom, List.mem_cons, Prod.mk.injEq, ih]
    rcases Nat.lt_trichotomy i a with h | rfl | h
    · exact ⟨fun h' => by omega, fun h' => by omega⟩
    · simp [eq_comm]
    · have hi : i - a = i - (a + 1) + 1 := by omega
      have hne : i ≠ a := by omega
      simp only [hi, hne, false_and, false_or, List.getElem?_cons_succ]
      exact and_congr_left fun _ => by omega

/-- A cell is listed exactly where reading that byte of the space gives it. -/
theorem mem_cells_iff (bs : Bytes) (b : Byte) (i : Nat) :
    (i, b) ∈ Memory.cells bs ↔ readByte bs i = some b := by
  simp [Memory.cells, mem_cellsFrom_iff, readByte]

@[simp] theorem be32_length (v : Word) : (be32 v).length = 4 := rfl

@[simp] theorem typeBytes_length (t : TypeCode) : (typeBytes t).length = 4 := rfl

/-- Two type codes with the same bytes are the same (R141). -/
theorem typeBytes_inj (t u : TypeCode) : typeBytes t = typeBytes u ↔ t = u := by
  cases t; cases u; simp [typeBytes]

/-- The boolean capacity test is the capacity condition. -/
theorem fitsBuf_iff (c : Caps) (n : Nat) : fitsBuf c n = true ↔ FitsBuf c n := by
  unfold fitsBuf FitsBuf
  cases c.buf <;> simp

theorem fitsStore_iff (c : Caps) (n : Nat) : fitsStore c n = true ↔ FitsStore c n := by
  unfold fitsStore FitsStore
  cases c.store <;> simp

theorem payloadSum_eq (cs : List ChunkRec) :
    payloadSum cs = (cs.map fun d => d.length.toNat).sum := by
  induction cs <;> simp_all [payloadSum]

theorem fitsList_iff (c : Caps) (cs : List ChunkRec) : fitsList c cs = true ↔ FitsList c cs := by
  simp [fitsList, FitsList, fitsChunks, fitsStore_iff, payloadSum_eq]

theorem wireLen_eq (cs : List ChunkRec) : wireLen cs = serializedLength cs := by
  induction cs with
  | nil => rfl
  | cons c cs ih =>
    simp only [wireLen, ih, serializedLength, List.map_cons, List.sum_cons, frameLen, frameOverhead]
    omega

theorem framesOf_eq (cs : List ChunkRec) : framesOf cs = (cs.map frame).flatten := by
  induction cs <;> simp_all [framesOf]

end Sys2Proof.Machine
end

