-- ==== Sys2Proof/Laws/Ops.lean ====
section
/-! SUPPORT. One lemma per shared operation that says everything it can do; the proofs about commands
cite these and do not unfold the operations. -/

namespace Sys2Proof.Machine

/-- Outcome OK writes STATUS and nothing else on top of the result. -/
@[simp] theorem done_eq (b : Block) : done b = { b with status := 0x00 } := rfl

/-- An error writes its code to STATUS and nothing else (R230). -/
theorem raise_eq (k : ErrorKind) (b : Block) : raise k b = { b with status := errorByte k } := by
  cases k <;> rfl

/-- A refusal writes 0x07 + 16 * SUB to STATUS and nothing else (R232). -/
theorem refuse_eq (r : RefuseReason) (b : Block) :
    refuse r b = { b with status := refusedByte r } := by
  cases r <;> rfl

/-- Producing bytes: OBUF and OK when they fit, CAPACITY when not. -/
theorem emit_eq (k : Caps) (n : Nat) (bs : Bytes) (b : Block) :
    (FitsBuf k n → emit k n bs b = { b with obuf := bs, status := 0x00 }) ∧
    (¬ FitsBuf k n → emit k n bs b = { b with status := 0x47 }) := by
  constructor
  · intro h
    simp [emit, (fitsBuf_iff ..).2 h, Block.withObuf]
  · intro h
    have hf : fitsBuf k n = false := Bool.eq_false_iff.2 fun h' => h ((fitsBuf_iff ..).1 h')
    simp [emit, hf, refuse_eq, refusedByte]

/-- An operand in WTC: NO_OPERAND when it is not valid, else what the command does with it. -/
theorem needWtc_eq (b : Block) (f : TypeCode → Block) :
    (b.wtc = none → needWtc b f = { b with status := 0x27 }) ∧
    ∀ t, b.wtc = some t → needWtc b f = f t := by
  constructor <;> intros <;> simp_all [needWtc, refuse_eq, refusedByte]

/-- An operand in WCH: NO_OPERAND when it is not valid, else what the command does with it. -/
theorem needWch_eq (b : Block) (f : ChunkRec → Block) :
    (b.wch = none → needWch b f = { b with status := 0x27 }) ∧
    ∀ c, b.wch = some c → needWch b f = f c := by
  constructor <;> intros <;> simp_all [needWch, refuse_eq, refusedByte]

/-- The container as an operand: NOT_LOADED when LOADED = 0, else what the command does with it. -/
theorem needLoaded_eq (b : Block) (f : List ChunkRec → Block) :
    (b.loaded = false → needLoaded b f = { b with status := 0x37 }) ∧
    (b.loaded = true → needLoaded b f = f b.clist) := by
  constructor <;> intro h <;> simp [needLoaded, h, refuse_eq, refusedByte]

/-- Every command in the whole state is the command of the block under the state's parameters. -/
theorem exec_eq (i : Instr) (s : State) :
    exec i s = .next (s.withBlock (Block.exec s.caps i s.toBlock)) := by
  cases i <;> rfl

/-- The letter test is the condition on four letters (R140). -/
theorem allLetters_iff (t : TypeCode) : allLetters t = true ↔ TypeOk t := by
  simp [allLetters, TypeOk, AsciiLetter, isLetter, isUpper, isLower, and_assoc]

/-- Taking a checked type code: WTC when it is letters, InvalidEncoding when not. -/
theorem setWtcChecked_eq (c : TypeCode) (b : Block) :
    (TypeOk c → setWtcChecked c b = { b with wtc := some c, status := 0x00 }) ∧
    (¬ TypeOk c → setWtcChecked c b = { b with status := 0x04 }) := by
  constructor
  · intro h
    simp [setWtcChecked, (allLetters_iff c).2 h, Block.withWtc]
  · intro h
    have hf : allLetters c = false := Bool.eq_false_iff.2 fun h' => h ((allLetters_iff c).1 h')
    simp [setWtcChecked, hf, raise_eq, errorByte]

/-- A text matches a type exactly when it is its four bytes (R199). -/
theorem matchesText_iff (t : TypeCode) (q : Bytes) : matchesText t q = true ↔ q = typeBytes t := by
  simp [matchesText]

/-- Where the search finds a chunk, it is in the list at that index, matches, and none before it does. -/
theorem firstMatch_eq_some_iff (q : Bytes) (cs : List ChunkRec) : ∀ i c,
    firstMatch q cs = some (i, c) ↔ ∃ pre post, cs = pre ++ c :: post ∧ pre.length = i ∧
      q = typeBytes c.type ∧ ∀ d ∈ pre, q ≠ typeBytes d.type := by
  induction cs with
  | nil => intro i c; simp [firstMatch]
  | cons e es ih =>
    intro i c
    unfold firstMatch
    split
    · rename_i h
      have hq := (matchesText_iff ..).1 h
      constructor
      · rintro h'
        simp only [Option.some.injEq, Prod.mk.injEq] at h'
        obtain ⟨rfl, rfl⟩ := h'
        exact ⟨[], es, rfl, rfl, hq, by simp⟩
      · rintro ⟨pre, post, hc, hl, -, hn⟩
        cases pre with
        | nil => simp_all
        | cons d pre =>
          simp only [List.cons_append, List.cons.injEq] at hc
          exact absurd (hc.1 ▸ hq) (hn d (by simp))
    · rename_i h
      have hq : q ≠ typeBytes e.type := fun h' => h ((matchesText_iff ..).2 h')
      constructor
      · intro h'
        simp only [Option.map_eq_some_iff, Prod.exists, Prod.mk.injEq] at h'
        obtain ⟨j, d, hj, rfl, rfl⟩ := h'
        obtain ⟨pre, post, rfl, rfl, hd, hn⟩ := (ih j d).1 hj
        exact ⟨e :: pre, post, rfl, rfl, hd, by simpa using ⟨hq, hn⟩⟩
      · rintro ⟨pre, post, hc, hl, hd, hn⟩
        cases pre with
        | nil =>
          simp only [List.nil_append, List.cons.injEq] at hc
          exact absurd (hc.1 ▸ hd) hq
        | cons d pre =>
          simp only [List.cons_append, List.cons.injEq] at hc
          obtain ⟨rfl, rfl⟩ := hc
          have := (ih pre.length c).2 ⟨pre, post, rfl, rfl, hd, fun x hx => hn x (by simp [hx])⟩
          simp [this, ← hl]

/-- The search finds nothing exactly when no chunk matches. -/
theorem firstMatch_eq_none_iff (q : Bytes) (cs : List ChunkRec) :
    firstMatch q cs = none ↔ ∀ d ∈ cs, q ≠ typeBytes d.type := by
  induction cs with
  | nil => simp [firstMatch]
  | cons e es ih =>
    unfold firstMatch
    split
    · rename_i h
      simp [(matchesText_iff ..).1 h]
    · rename_i h
      have hq : q ≠ typeBytes e.type := fun h' => h ((matchesText_iff ..).2 h')
      simp [ih, hq]

/-- A host read adds its answer and leaves the block alone (R268). -/
theorem reply_eq (r : HostReply) (s : State) :
    reply r s = .next { s with replies := s.replies ++ [r] } := rfl

/-- Folding bytes into the CRC register goes on where it stopped (R129). -/
theorem crcRun_append (c : Word) (x y : Bytes) : crcRun c (x ++ y) = crcRun (crcRun c x) y := by
  simp [crcRun]

end Sys2Proof.Machine
end

