-- ==== Sys2Proof/Laws/PerInstr.lean ====
section
/-! SUPPORT. What is said of every command as syntax, one lemma per constructor: its word carries its
CMD_OP in bits 39:32 and is 0 in every CMD_ARG bit the command ignores (R80, R83, R91). -/

namespace Sys2Proof.Laws

/-- The fields of a built word read back. -/
@[simp] theorem cmdOp_cmdWord (op : Byte) (arg : Word) : cmdOp (cmdWord op arg) = op := by
  apply BitVec.eq_of_getLsbD_eq
  intro i hi
  simp only [cmdOp, cmdWord, BitVec.getLsbD_extractLsb', BitVec.getLsbD_append, hi, decide_true,
    Bool.true_and, show ¬ 32 + i < 32 by omega, if_false, Nat.add_sub_cancel_left]

@[simp] theorem cmdArg_cmdWord (op : Byte) (arg : Word) : cmdArg (cmdWord op arg) = arg := by
  apply BitVec.eq_of_getLsbD_eq
  intro i hi
  simp only [cmdArg, cmdWord, BitVec.getLsbD_extractLsb', BitVec.getLsbD_append, hi, decide_true,
    Bool.true_and, Nat.zero_add, if_true]

/-- A byte widened to a word has nothing above its 8 bits. -/
theorem setWidth_and_not_mask (b : Byte) : (b.setWidth 32 : Word) &&& ~~~(0x000000FF : Word) = 0 := by
  apply BitVec.eq_of_toNat_eq
  apply Nat.eq_of_testBit_eq
  intro i
  simp only [BitVec.toNat_and, BitVec.toNat_setWidth, Nat.testBit_and]
  rw [Nat.mod_eq_of_lt (by have := b.isLt; omega)]
  by_cases hi : i < 8
  · rw [show (~~~(0x000000FF : Word)).toNat = 0xFFFFFF00 from rfl]
    have : Nat.testBit 0xFFFFFF00 i = false := by interval_cases i <;> rfl
    simp [this]
  · rw [Nat.testBit_lt_two_pow (lt_of_lt_of_le b.isLt (Nat.pow_le_pow_right (by omega) (by omega)))]
    simp

namespace EncodingShape

/-- The word of a command: its CMD_OP, and zeros where CMD_ARG is ignored. -/
def Statement (i : Instr) : Prop :=
  cmdOp (encode i) = opcode i ∧ cmdArg (encode i) &&& ~~~argMask i = 0

theorem crcInit : Statement .crcInit := ⟨cmdOp_cmdWord .., by simp [encode, argument, argMask]⟩

theorem crcUpdb (b : Byte) : Statement (.crcUpdb b) :=
  ⟨cmdOp_cmdWord .., by
    rw [encode, cmdArg_cmdWord]
    exact setWidth_and_not_mask b⟩

theorem crcFinal : Statement .crcFinal := ⟨cmdOp_cmdWord .., by simp [encode, argument, argMask]⟩

theorem crcCalc : Statement .crcCalc := ⟨cmdOp_cmdWord .., by simp [encode, argument, argMask]⟩

theorem tcFrombytes (w : Word) : Statement (.tcFrombytes w) :=
  ⟨cmdOp_cmdWord .., by simp [encode, argument, argMask]⟩

theorem tcFromtext : Statement .tcFromtext := ⟨cmdOp_cmdWord .., by simp [encode, argument, argMask]⟩

theorem tcRaw : Statement .tcRaw := ⟨cmdOp_cmdWord .., by simp [encode, argument, argMask]⟩

theorem tcTotext : Statement .tcTotext := ⟨cmdOp_cmdWord .., by simp [encode, argument, argMask]⟩

theorem tcIscrit : Statement .tcIscrit := ⟨cmdOp_cmdWord .., by simp [encode, argument, argMask]⟩

theorem tcIspub : Statement .tcIspub := ⟨cmdOp_cmdWord .., by simp [encode, argument, argMask]⟩

theorem tcIsrsv : Statement .tcIsrsv := ⟨cmdOp_cmdWord .., by simp [encode, argument, argMask]⟩

theorem tcIssafe : Statement .tcIssafe := ⟨cmdOp_cmdWord .., by simp [encode, argument, argMask]⟩

theorem tcIsvalid : Statement .tcIsvalid := ⟨cmdOp_cmdWord .., by simp [encode, argument, argMask]⟩

theorem chEncode : Statement .chEncode := ⟨cmdOp_cmdWord .., by simp [encode, argument, argMask]⟩

theorem chDecode (off : Word) : Statement (.chDecode off) :=
  ⟨cmdOp_cmdWord .., by simp [encode, argument, argMask]⟩

theorem chSerialize : Statement .chSerialize := ⟨cmdOp_cmdWord .., by simp [encode, argument, argMask]⟩

theorem chAstext : Statement .chAstext := ⟨cmdOp_cmdWord .., by simp [encode, argument, argMask]⟩

theorem chLength : Statement .chLength := ⟨cmdOp_cmdWord .., by simp [encode, argument, argMask]⟩

theorem chType : Statement .chType := ⟨cmdOp_cmdWord .., by simp [encode, argument, argMask]⟩

theorem chData : Statement .chData := ⟨cmdOp_cmdWord .., by simp [encode, argument, argMask]⟩

theorem chCrc : Statement .chCrc := ⟨cmdOp_cmdWord .., by simp [encode, argument, argMask]⟩

theorem ctParse : Statement .ctParse := ⟨cmdOp_cmdWord .., by simp [encode, argument, argMask]⟩

theorem ctAppend : Statement .ctAppend := ⟨cmdOp_cmdWord .., by simp [encode, argument, argMask]⟩

theorem ctRemove : Statement .ctRemove := ⟨cmdOp_cmdWord .., by simp [encode, argument, argMask]⟩

theorem ctFind : Statement .ctFind := ⟨cmdOp_cmdWord .., by simp [encode, argument, argMask]⟩

theorem ctSerialize : Statement .ctSerialize := ⟨cmdOp_cmdWord .., by simp [encode, argument, argMask]⟩

theorem ctDescribe : Statement .ctDescribe := ⟨cmdOp_cmdWord .., by simp [encode, argument, argMask]⟩

end EncodingShape

end Sys2Proof.Laws
end

