-- ==== Sys2Proof/Tests/Slice0.lean ====
section
/-! SUPPORT. The model's own tests. Expected values are those of spec/95_test_vectors.md (the section or
row is named) and of the encoding tables of spec/30_encoding.md; witness_<Name> shows that the
hypotheses of Obligations.<Name> can be met. -/

namespace Sys2Proof.Tests

set_option Elab.async false

open Sys2Proof.Machine

-- Small states and values.

/-- The next state, if there is one. -/
def after : Out → Option State
  | .next s => some s
  | .fault _ => none
  | .refused _ => none

/-- STATUS after a command. -/
def statusAfter (i : Instr) (s : State) : Option Byte := (after (exec i s)).map (·.status)

/-- Reset with these bytes in IBUF. -/
def inp (bs : Bytes) : State := { State.reset with ibuf := bs }

def tRuSt : TypeCode := ⟨0x52, 0x75, 0x53, 0x74⟩
def tRust : TypeCode := ⟨0x52, 0x75, 0x73, 0x74⟩
def trUsT : TypeCode := ⟨0x72, 0x55, 0x73, 0x54⟩

def cHead : ChunkRec := ⟨1, ⟨0x68, 0x65, 0x41, 0x64⟩, [0x01], 0x6456B562⟩
def cRuSt : ChunkRec := ⟨2, tRuSt, [0x48, 0x69], 0x47381BD1⟩
def cYo : ChunkRec := ⟨2, tRuSt, [0x59, 0x6F], 0xFD829DF4⟩
def cIend : ChunkRec := ⟨0, ⟨0x49, 0x45, 0x4E, 0x44⟩, [], 0xAE426082⟩
def cTest : ChunkRec := ⟨1, ⟨0x74, 0x65, 0x53, 0x74⟩, [0x41], 0xE2FAEB3E⟩

/-- The frame f of V3. -/
def f : Bytes := [0x00, 0x00, 0x00, 0x02, 0x52, 0x75, 0x53, 0x74, 0x48, 0x69, 0x47, 0x38, 0x1B, 0xD1]

/-- K3 (43_container.md). -/
def k3 : Bytes :=
  [0x89, 0x50, 0x4E, 0x47, 0x0D, 0x0A, 0x1A, 0x0A, 0x00, 0x00, 0x00, 0x01, 0x68, 0x65,
   0x41, 0x64, 0x01, 0x64, 0x56, 0xB5, 0x62, 0x00, 0x00, 0x00, 0x02, 0x52, 0x75, 0x53, 0x74,
   0x48, 0x69, 0x47, 0x38, 0x1B, 0xD1, 0x00, 0x00, 0x00, 0x00, 0x49, 0x45, 0x4E, 0x44, 0xAE,
   0x42, 0x60, 0x82]

/-- Reset with this type code in WTC. -/
def wtcState (t : TypeCode) : State := { State.reset with wtc := some t }
/-- Reset with this chunk in WCH. -/
def wchState (c : ChunkRec) : State := { State.reset with wch := some c }
/-- Reset with WCH holding this payload (its crc plays no part in the view tested). -/
def payload (bs : Bytes) : State := wchState ⟨BitVec.ofNat 32 bs.length, tRuSt, bs, 0⟩
/-- A loaded container with these chunks and these bytes in IBUF. -/
def loaded (cs : List ChunkRec) (bs : Bytes) : State :=
  { State.reset with loaded := true, clist := cs, ibuf := bs }
/-- The chunks of K3. -/
def k3Chunks : List ChunkRec := [cHead, cRuSt, cIend]
/-- The same state with these capacities. -/
def capped (b : Option Nat) (n : Nat) (p : Option Nat) (s : State) : State :=
  { s with caps := ⟨b, n, p⟩ }

-- WellFormed: an ill-formed term for each check (R7, R268).

theorem test_wf_capBuf_below_12 : Caps.wf ⟨some 11, 5, none⟩ = false := by decide
theorem test_wf_capChunks_above_2_32 : Caps.wf ⟨none, 2 ^ 32, none⟩ = false := by decide
theorem test_wf_caps : Caps.wf ⟨some 12, 2 ^ 32 - 1, none⟩ = true := by decide
theorem test_wf_wribuf_too_long :
    HostMove.wf ⟨some 12, 5, none⟩ (.wribuf (List.replicate 13 0)) = false := by decide
theorem test_wf_wribuf_fits :
    HostMove.wf ⟨some 12, 5, none⟩ (.wribuf (List.replicate 12 0)) = true := by decide

-- Decode: one word per command, from R80, R82 and R83.

theorem test_decode_crcInit : decode 0x0000000000 = .ok (.crcInit) := by decide
theorem test_decode_crcUpdb : decode 0x01FFFFFF49 = .ok (.crcUpdb 0x49) := by decide
theorem test_decode_crcFinal : decode 0x0200000000 = .ok (.crcFinal) := by decide
theorem test_decode_crcCalc : decode 0x0300000000 = .ok (.crcCalc) := by decide
theorem test_decode_tcFrombytes : decode 0x1052755374 = .ok (.tcFrombytes 0x52755374) := by decide
theorem test_decode_tcFromtext : decode 0x1100000000 = .ok (.tcFromtext) := by decide
theorem test_decode_tcRaw : decode 0x1200000000 = .ok (.tcRaw) := by decide
theorem test_decode_tcTotext : decode 0x13FFFFFFFF = .ok (.tcTotext) := by decide
theorem test_decode_tcIscrit : decode 0x1400000000 = .ok (.tcIscrit) := by decide
theorem test_decode_tcIspub : decode 0x1500000000 = .ok (.tcIspub) := by decide
theorem test_decode_tcIsrsv : decode 0x1600000000 = .ok (.tcIsrsv) := by decide
theorem test_decode_tcIssafe : decode 0x1700000000 = .ok (.tcIssafe) := by decide
theorem test_decode_tcIsvalid : decode 0x1800000000 = .ok (.tcIsvalid) := by decide
theorem test_decode_chEncode : decode 0x2000000000 = .ok (.chEncode) := by decide
theorem test_decode_chDecode : decode 0x2180000001 = .ok (.chDecode 0x80000001) := by decide
theorem test_decode_chSerialize : decode 0x2200000000 = .ok (.chSerialize) := by decide
theorem test_decode_chAstext : decode 0x2300000000 = .ok (.chAstext) := by decide
theorem test_decode_chLength : decode 0x2400000000 = .ok (.chLength) := by decide
theorem test_decode_chType : decode 0x2500000000 = .ok (.chType) := by decide
theorem test_decode_chData : decode 0x2600000000 = .ok (.chData) := by decide
theorem test_decode_chCrc : decode 0x2700000000 = .ok (.chCrc) := by decide
theorem test_decode_ctParse : decode 0x3000000000 = .ok (.ctParse) := by decide
theorem test_decode_ctAppend : decode 0x3100000000 = .ok (.ctAppend) := by decide
theorem test_decode_ctRemove : decode 0x3200000000 = .ok (.ctRemove) := by decide
theorem test_decode_ctFind : decode 0x3300000000 = .ok (.ctFind) := by decide
theorem test_decode_ctSerialize : decode 0x3400000000 = .ok (.ctSerialize) := by decide
theorem test_decode_ctDescribe : decode 0x3500001234 = .ok (.ctDescribe) := by decide
theorem test_decode_undefined : decode 0x9900001234 = .error (.undefinedOp 0x99) := by decide
/-- The table's word of TC.FROMBYTES "RuSt" reads and runs as the first command after reset. -/
theorem test_fetch_word :
    decodeTableWord 40 0x1052755374 = some (.tcFrombytes 0x52755374) ∧
    (after (step (State.reset.withFetchWord 40 0x1052755374))).map (·.wtc) = some (some tRuSt) := by
  decide +kernel

-- CRC unit (S1, V1, P1).

theorem test_crcInit :
    (after (exec .crcInit { State.reset with crcr := 5 })).map (·.crcr) = some 0xFFFFFFFF := by
  decide +kernel
/-- V1 row (12345678, AB) and P1's first byte. -/
theorem test_crcUpdb :
    (after (exec (.crcUpdb 0xAB) { State.reset with crcr := 0x12345678 })).map (·.crcr)
      = some 0x1FC8B738 ∧
    (after (exec (.crcUpdb 0x49) State.reset)).map (·.crcr) = some 0x22FDE946 := by decide +kernel
/-- R128's example. -/
theorem test_crcFinal :
    (after (exec .crcFinal { State.reset with crcr := 0x51BD9F7D })).map (fun t => (t.res, t.crcr))
      = some (0xAE426082, 0x51BD9F7D) := by decide +kernel
/-- S1: the source's reference vector. -/
theorem test_crcCalc_reference :
    (after (exec .crcCalc (inp
      [0x54, 0x68, 0x65, 0x20, 0x71, 0x75, 0x69, 0x63, 0x6B, 0x20, 0x62, 0x72, 0x6F, 0x77,
   0x6E, 0x20, 0x66, 0x6F, 0x78, 0x20, 0x6A, 0x75, 0x6D, 0x70, 0x73, 0x20, 0x6F, 0x76, 0x65,
   0x72, 0x20, 0x74, 0x68, 0x65, 0x20, 0x6C, 0x61, 0x7A, 0x79, 0x20, 0x64, 0x6F, 0x67]))).map
      (fun t => (t.res, t.crcr)) = some (0x414FA339, 0xBEB05CC6) := by decide +kernel
theorem test_crcCalc_empty :
    (after (exec .crcCalc State.reset)).map (fun t => (t.res, t.crcr)) = some (0, 0xFFFFFFFF) := by
  decide +kernel
/-- V1: order of bytes matters. -/
theorem test_crc32_order : crc32 [0x61, 0x62] = 0x9E83486D ∧ crc32 [0x62, 0x61] = 0x2CA74A14 := by
  decide +kernel

-- Type codes (S3, V2).

theorem test_tcFrombytes_range_ends :
    (after (exec (.tcFrombytes 0x415A617A) State.reset)).map (·.wtc)
      = some (some ⟨0x41, 0x5A, 0x61, 0x7A⟩) := by decide +kernel
/-- V2: the bytes next to the ranges, and WTC kept. -/
theorem test_tcFrombytes_rejects :
    [0x40414141, 0x5B414141, 0x60616161, 0x7B616161, 0x41414140, 0x52753174, 0x41414180].all
      (fun w => after (exec (.tcFrombytes w) (wtcState tRuSt)) ==
        some { wtcState tRuSt with status := 0x04 }) = true := by decide +kernel
theorem test_tcFromtext :
    (after (exec .tcFromtext (inp [0x52, 0x75, 0x73, 0x74]))).map (·.wtc) = some (some tRust) := by
  decide +kernel
theorem test_tcFromtext_rejects :
    [[], [0x52, 0x75, 0x53], [0x52, 0x75, 0x53, 0x74, 0x78], [0x52, 0x75, 0x31, 0x74],
      [0x52, 0xC3, 0xA9, 0x53]].all (fun bs => statusAfter .tcFromtext (inp bs) == some 0x04)
      = true := by decide +kernel
theorem test_tcRaw :
    (after (exec .tcRaw (wtcState tRuSt))).map (·.res) = some 0x52755374 ∧
    after (exec .tcRaw State.reset) = some { State.reset with status := 0x27 } := by decide +kernel
theorem test_tcTotext :
    (after (exec .tcTotext (wtcState tRuSt))).map (·.obuf) = some [0x52, 0x75, 0x53, 0x74] := by
  decide +kernel
/-- V2 rows RuSt and rUsT. -/
theorem test_tcIscrit :
    (after (exec .tcIscrit (wtcState tRuSt))).map (·.res) = some 1 ∧
    (after (exec .tcIscrit (wtcState trUsT))).map (·.res) = some 0 := by decide +kernel
theorem test_tcIspub :
    (after (exec .tcIspub (wtcState tRuSt))).map (·.res) = some 0 ∧
    (after (exec .tcIspub (wtcState trUsT))).map (·.res) = some 1 := by decide +kernel
theorem test_tcIsrsv :
    (after (exec .tcIsrsv (wtcState tRuSt))).map (·.res) = some 1 ∧
    (after (exec .tcIsrsv (wtcState tRust))).map (·.res) = some 0 := by decide +kernel
theorem test_tcIssafe :
    (after (exec .tcIssafe (wtcState tRuSt))).map (·.res) = some 1 ∧
    (after (exec .tcIssafe (wtcState trUsT))).map (·.res) = some 0 := by decide +kernel
theorem test_tcIsvalid :
    (after (exec .tcIsvalid (wtcState tRuSt))).map (·.res) = some 1 ∧
    (after (exec .tcIsvalid (wtcState tRust))).map (·.res) = some 0 := by decide +kernel

-- Framer (S2, S4, S5, V3).

/-- S2: the hidden message's checksum. -/
theorem test_chEncode_message :
    (after (exec .chEncode { wtcState tRuSt with ibuf :=
      [0x54, 0x68, 0x69, 0x73, 0x20, 0x69, 0x73, 0x20, 0x77, 0x68, 0x65, 0x72, 0x65, 0x20,
   0x79, 0x6F, 0x75, 0x72, 0x20, 0x73, 0x65, 0x63, 0x72, 0x65, 0x74, 0x20, 0x6D, 0x65, 0x73,
   0x73, 0x61, 0x67, 0x65, 0x20, 0x77, 0x69, 0x6C, 0x6C, 0x20, 0x62, 0x65, 0x21] })).map
      (fun t => t.wch.map fun c => (c.length, c.crc)) = some (some (42, 0xABD1D84E)) := by
  decide +kernel
theorem test_chEncode_empty :
    (after (exec .chEncode (wtcState ⟨0x68, 0x65, 0x41, 0x64⟩))).map (·.wch)
      = some (some ⟨0, ⟨0x68, 0x65, 0x41, 0x64⟩, [], 0x3277D23E⟩) := by decide +kernel
/-- V3 rows 2, 26, 27. -/
theorem test_chDecode_ok :
    (after (exec (.chDecode 0) (inp (f ++ [0xAA, 0xBB, 0xCC])))).map (fun t => (t.wch, t.res))
      = some (some cRuSt, 14) ∧
    (after (exec (.chDecode 21) (inp k3))).map (fun t => (t.wch, t.res)) = some (some cRuSt, 14) ∧
    (after (exec (.chDecode 35) (inp k3))).map (fun t => (t.wch, t.res)) = some (some cIend, 12) := by
  decide +kernel
/-- V3 rows 6, 10, 11, 13 to 16, 18 to 22, 24. -/
theorem test_chDecode_errors :
    [(0, [0x80, 0, 0, 0], 3), (0, [0x7F, 0xFF, 0xFF, 0xFF, 0x52, 0x75, 0x53, 0x74, 0, 0, 0, 0], 2),
     (0, [0x80, 0, 0, 0, 0x52, 0x75, 0x53, 0x74, 0, 0, 0, 0], 3), (0, f.set 0 2 |>.set 3 0, 2),
     (0, [0, 0, 0, 2, 0x52, 0x75, 0x31, 0x74, 0, 0, 0, 0], 2),
     (0, [0xFF, 0xFF, 0xFF, 0xFF, 0x52, 0x75, 0x31, 0x74, 0, 0, 0, 0], 3),
     (0, [0, 0, 0, 0, 0x52, 0x75, 0x31, 0x74, 0, 0, 0, 0], 4), (0, f.set 13 0xD0, 5),
     (0, f.take 10 ++ [0xD1, 0x1B, 0x38, 0x47], 5), (0, f.set 3 1, 5), (14, f, 2), (15, f, 2),
     (0xFFFFFFFF, f, 2), (4, f, 2)].all
      (fun r => after (exec (.chDecode r.1) (inp r.2.1)) ==
        some { inp r.2.1 with status := r.2.2 }) = true := by decide +kernel
/-- V3's views, and V4's CAP_BUF = 12. -/
theorem test_chSerialize :
    (after (exec .chSerialize (wchState cRuSt))).map (·.obuf) = some f ∧
    statusAfter .chSerialize (capped (some 13) 2 none (wchState cRuSt)) = some 0x47 ∧
    statusAfter .chSerialize (capped (some 12) 2 none (wchState cIend)) = some 0x00 := by
  decide +kernel
/-- V3's CH.ASTEXT table. -/
theorem test_chAstext_valid :
    [[], [0x00], [0x7F], [0xC3, 0xA9], [0xE2, 0x82, 0xAC], [0xF0, 0x9F, 0x98, 0x80], [0xE0, 0xA0, 0x80],
      [0xED, 0x9F, 0xBF], [0xF0, 0x90, 0x80, 0x80], [0xF4, 0x8F, 0xBF, 0xBF]].all
      (fun bs => (after (exec .chAstext (payload bs))).map (fun t => (t.status, t.obuf))
        == some (0x00, bs)) = true := by decide +kernel
theorem test_chAstext_invalid :
    [[0xFF], [0x80], [0xC0, 0x80], [0xC1, 0xBF], [0xC3], [0xE2, 0x82], [0xE0, 0x80, 0x80],
      [0xE0, 0x9F, 0xBF], [0xED, 0xA0, 0x80], [0xF0, 0x8F, 0xBF, 0xBF], [0xF4, 0x90, 0x80, 0x80],
      [0xF5, 0x80, 0x80, 0x80], [0x48, 0x69, 0xFF]].all
      (fun bs => statusAfter .chAstext (payload bs) == some 0x04) = true := by decide +kernel
theorem test_chLength :
    (after (exec .chLength (wchState cRuSt))).map (·.res) = some 2 ∧
    statusAfter .chLength State.reset = some 0x27 := by decide +kernel
theorem test_chType :
    (after (exec .chType (wchState cRuSt))).map (fun t => (t.wtc, t.res))
      = some (some tRuSt, 0x52755374) := by decide +kernel
theorem test_chData :
    (after (exec .chData (payload [0xFF, 0x00]))).map (·.obuf) = some [0xFF, 0x00] := by
  decide +kernel
theorem test_chCrc : (after (exec .chCrc (wchState cRuSt))).map (·.res) = some 0x47381BD1 := by
  decide +kernel

-- Container (S6, S7, V4, P3 to P7).

/-- V4 rows 1, 2, 20 to 22. -/
theorem test_ctParse_ok :
    (after (exec .ctParse (inp k3))).map (fun t => (t.clist, t.loaded, t.res))
      = some (k3Chunks, true, 3) ∧
    (after (exec .ctParse (inp (k3.take 8)))).map (fun t => (t.clist, t.loaded, t.res))
      = some ([], true, 0) ∧
    after (exec .ctParse (capped none 2 none (inp k3)))
      = some { capped none 2 none (inp k3) with status := 0x47 } ∧
    statusAfter .ctParse (capped none 3 (some 2) (inp k3)) = some 0x47 ∧
    statusAfter .ctParse (capped none 3 (some 3) (inp k3)) = some 0x00 := by decide +kernel
/-- V4 rows 3 to 16 (row 16's bad CRC before a bad type). -/
theorem test_ctParse_errors :
    [([], 1), (k3.take 7, 1), (k3.set 0 0x88, 1), (k3.set 7 0x0B, 1), (k3.take 46, 2), (k3 ++ [0], 2),
     (k3 ++ [0, 0, 0, 0], 2), (k3 ++ [0x80, 0, 0, 0], 3), (k3 ++ List.replicate 11 0, 2),
     (k3.set 16 2, 5), (k3.set 27 0x31, 4), (k3.take 8 ++ k3.take 8, 3),
     (k3.take 20 ++ [0] ++ [0, 0, 0, 0, 0x52, 0x75, 0x31, 0x74, 0, 0, 0, 0], 5)].all
      (fun r => after (exec .ctParse (inp r.1)) == some { inp r.1 with status := r.2 }) = true := by
  decide +kernel
/-- R197's example; V4's priority of NO_OPERAND over NOT_LOADED. -/
theorem test_ctAppend :
    (after (exec .ctAppend { loaded k3Chunks [] with wch := some cTest })).map
      (fun t => (t.clist, t.res)) = some (k3Chunks ++ [cTest], 4) ∧
    statusAfter .ctAppend State.reset = some 0x27 ∧
    statusAfter .ctAppend (wchState cTest) = some 0x37 := by decide +kernel
/-- P5: the earliest of two; V4: not InvalidEncoding. -/
theorem test_ctRemove :
    (after (exec .ctRemove (loaded [cRuSt, cIend, cYo] [0x52, 0x75, 0x53, 0x74]))).map
      (fun t => (t.clist, t.res)) = some ([cIend, cYo], 0) ∧
    (after (exec .ctRemove (loaded k3Chunks [0x49, 0x45, 0x4E, 0x44]))).map
      (fun t => (t.clist, t.res)) = some ([cHead, cRuSt], 2) ∧
    statusAfter .ctRemove (loaded k3Chunks [0x52, 0x75, 0x31, 0x74]) = some 0x06 := by decide +kernel
/-- V4's CT.FIND rows. -/
theorem test_ctFind :
    (after (exec .ctFind (loaded k3Chunks [0x52, 0x75, 0x53, 0x74]))).map (fun t => (t.wch, t.res))
      = some (some cRuSt, 1) ∧
    [[0x72, 0x75, 0x73, 0x74], [0x52, 0x75, 0x53], [0x52, 0x75, 0x53, 0x74, 0x00], []].all
      (fun q => statusAfter .ctFind (loaded k3Chunks q) == some 0x06) = true := by decide +kernel
theorem test_ctSerialize :
    (after (exec .ctSerialize (loaded k3Chunks []))).map (·.obuf) = some k3 ∧
    statusAfter .ctSerialize State.reset = some 0x37 := by decide +kernel
/-- V4's CT.DESCRIBE row, for any DESCRIBE_FMT. -/
theorem test_ctDescribe :
    (after (exec .ctDescribe (loaded k3Chunks []))).map (·.obuf)
      = some (Config.describeFmt [137, 80, 78, 71, 13, 10, 26, 10]
          [(⟨0x68, 0x65, 0x41, 0x64⟩, 1, 0x6456B562), (tRuSt, 2, 0x47381BD1),
           (⟨0x49, 0x45, 0x4E, 0x44⟩, 0, 0xAE426082)]) := rfl

-- The host (P4, R268).

/-- V4's undefined words change STATUS alone. -/
theorem test_undefined_words :
    [0x0400000000, 0x1900000000, 0x2800000000, 0x3600000000, 0x9900001234, 0xFFFFFFFFFF].all
      (fun w => after (step { inp k3 with moves := [.cmd w] }) ==
        some { inp k3 with status := 0x17 }) = true := by decide +kernel
/-- R36: the parameters and the word are inputs of the block's step; V4's CAP_BUF = 12. -/
theorem test_blockStep_inputs :
    (Block.step ⟨some 12, 2, none⟩ 0x2200000000 (wchState cRuSt).toBlock).status = 0x47 ∧
    (Block.step ⟨some 14, 2, none⟩ 0x2200000000 (wchState cRuSt).toBlock).obuf = f ∧
    Block.step ⟨none, 2, none⟩ 0x9900001234 Block.reset = { Block.reset with status := 0x17 } := by
  decide +kernel
theorem test_host_reads :
    (after (step { inp k3 with moves := [.rdreg .ilen] })).map (·.replies) = some [.reg .ilen 47] ∧
    (after (step { State.reset with obuf := [1], moves := [.rdobuf] })).map (·.replies)
      = some [.obuf [1]] := by decide +kernel

-- Witnesses: states and operands that meet the hypotheses of each statement.

/-- A state with every operand in place. -/
def full : State :=
  { loaded k3Chunks [0x52, 0x75, 0x53, 0x74] with wtc := some tRuSt, wch := some cRuSt }

/-- The same block with these moves to come. -/
def host (ms : List HostMove) (s : State) : State := { s with moves := ms }

theorem next_of_after {o : Out} {t : State} (h : after o = some t) : o = .next t := by
  cases o <;> simp_all [after]

theorem next_of_isSome {o : Out} (h : (after o).isSome = true) : ∃ t, o = .next t := by
  cases o <;> simp_all [after]

/-- The command ends with this STATUS in a next state. -/
theorem next_of_status {i : Instr} {s : State} {b : Byte} (h : statusAfter i s = some b) :
    ∃ t, exec i s = .next t ∧ t.status = b := by
  cases ho : exec i s <;> simp_all [statusAfter, after]

theorem fits {c : Caps} {n : Nat} (h : fitsBuf c n = true) : FitsBuf c n := (fitsBuf_iff ..).1 h

theorem not_fits {c : Caps} {n : Nat} (h : fitsBuf c n = false) : ¬ FitsBuf c n := fun h' => by
  simp [(fitsBuf_iff ..).2 h'] at h

theorem chunkOk_cRuSt : ChunkOk cRuSt := ⟨by decide, by decide, by decide, by decide +kernel⟩
theorem chunkOk_cYo : ChunkOk cYo := ⟨by decide, by decide, by decide, by decide +kernel⟩
theorem chunkOk_cIend : ChunkOk cIend := ⟨by decide, by decide, by decide, by decide +kernel⟩
theorem chunkOk_cHead : ChunkOk cHead := ⟨by decide, by decide, by decide, by decide +kernel⟩
theorem chunkOk_cTest : ChunkOk cTest := ⟨by decide, by decide, by decide, by decide +kernel⟩
theorem chunkOk_k3 : ∀ c ∈ k3Chunks, ChunkOk c := by
  simp [k3Chunks, chunkOk_cHead, chunkOk_cRuSt, chunkOk_cIend]

theorem inv_full : Inv full where
  capsOk := by decide
  wtcLetters := by simp only [full, Option.some.injEq, forall_eq']; decide
  wchOk := by simpa [full] using chunkOk_cRuSt
  wchFits := fun _ _ => fits rfl
  clistOk := chunkOk_k3
  clistFits := fun _ _ => fits rfl
  emptyUntilLoaded := by decide
  listFits := (fitsList_iff ..).1 (by decide)
  ibufFits := fits rfl
  obufFits := fits rfl
  statusLegal := by decide

-- Encoding, steps, the host.

theorem witness_DecodeFollowsTheOpcodeMap :
    (∀ op ∈ [(0x04 : Byte), 0x0F, 0x19, 0x1F, 0x28, 0x2F, 0x36, 0xFF], ∀ p ∈ opcodeMap, p.1 ≠ op) := by
  decide
theorem witness_UndefinedOpcodesAreRefused :
    (∀ op ∈ [(0x04 : Byte), 0x0F, 0x19, 0x1F, 0x28, 0x2F, 0x36, 0xFF], UndefinedOpcode op) ∧
    (∀ op ∈ [(0x03 : Byte), 0x10, 0x18, 0x20, 0x27, 0x30, 0x35], ¬ UndefinedOpcode op) ∧
    (host [.cmd (cmdWord 0x04 7)] full).moves = .cmd (cmdWord 0x04 7) :: [] := by
  refine ⟨by decide, by decide, rfl⟩
theorem witness_UnusedArgumentBitsAreIgnored :
    (0x00 : Byte) ≠ 0x01 ∧ (0x00 : Byte) ≠ 0x10 ∧ (0x00 : Byte) ≠ 0x21 := by decide
theorem witness_DecodeOfEncodeIsTheCommand : Instr.wf (.chDecode 0xFFFFFFFF) = true := rfl
theorem witness_DecodedWordsAreEncodingsUpToIgnoredBits :
    decode 0x01FFFFFF49 = .ok (.crcUpdb 0x49) ∧
    0x01FFFFFF49 &&& cmdWord 0xFF (argMask (.crcUpdb 0x49)) = encode (.crcUpdb 0x49) := by decide
theorem witness_StepRunsThePresentedCommand :
    decode 0x2700000000 = .ok .chCrc ∧ Instr.wf .chCrc = true ∧
    (host [.cmd 0x2700000000, .rdobuf] full).moves = .cmd 0x2700000000 :: [.rdobuf] := by decide
theorem witness_HostActionsTouchOnlyWhatTheyName :
    FitsBuf (capped (some 12) 5 none full).caps (List.replicate 12 (0 : Byte)).length ∧
    ¬ FitsBuf (capped (some 12) 5 none full).caps (List.replicate 13 (0 : Byte)).length ∧
    (∀ m ∈ [HostMove.wribuf (List.replicate 12 0), .wribuf (List.replicate 13 0), .rdobuf,
        .rdreg .busy, .reset], (host [m] full).moves = m :: []) ∧
    full.moves = [] := ⟨fits rfl, not_fits rfl, by decide, rfl⟩
theorem witness_ResetLeavesTheTabledValues :
    ∃ t, (host [.reset] full).moves = .reset :: [] ∧ step (host [.reset] full) = .next t :=
  ⟨_, rfl, rfl⟩

-- Outcomes and the commit rule.

theorem witness_StatusIsAlwaysAListedByte : ∀ w : CmdWord, w ∈ [0x9900001234, 0x0300000000] →
    ∃ t, runCmd w full = .next t := by
  intro w hw
  simp only [List.mem_cons, List.not_mem_nil, or_false] at hw
  rcases hw with rfl | rfl
  · exact next_of_isSome (by decide +kernel)
  · exact next_of_isSome (by decide +kernel)
/-- Each error and each refusal that a command can end with does occur. -/
theorem witness_OutcomesComeFromTheirCommands :
    ∀ r ∈ [(Instr.ctParse, inp [], (0x01 : Byte)), (.chDecode 14, inp f, 0x02),
        (.chDecode 0, inp [0x80, 0, 0, 0], 0x03), (.tcFrombytes 0, full, 0x04),
        (.chDecode 0, inp (f.set 13 0xD0), 0x05), (.ctFind, loaded k3Chunks [], 0x06),
        (.tcRaw, State.reset, 0x27), (.ctAppend, State.reset, 0x27), (.ctSerialize, State.reset, 0x37),
        (.chSerialize, capped (some 13) 5 none full, 0x47), (.crcCalc, full, 0x00)],
      ∃ t, exec r.1 r.2.1 = .next t ∧ t.status = r.2.2 := by
  have h : [(Instr.ctParse, inp [], (0x01 : Byte)), (.chDecode 14, inp f, 0x02),
        (.chDecode 0, inp [0x80, 0, 0, 0], 0x03), (.tcFrombytes 0, full, 0x04),
        (.chDecode 0, inp (f.set 13 0xD0), 0x05), (.ctFind, loaded k3Chunks [], 0x06),
        (.tcRaw, State.reset, 0x27), (.ctAppend, State.reset, 0x27), (.ctSerialize, State.reset, 0x37),
        (.chSerialize, capped (some 13) 5 none full, 0x47), (.crcCalc, full, 0x00)].all
      (fun r => statusAfter r.1 r.2.1 == some r.2.2) = true := by decide +kernel
  intro r hr
  exact next_of_status (by simpa using List.all_eq_true.1 h r hr)
theorem witness_NonOkOutcomeChangesOnlyStatus :
    ∃ t, exec .ctParse full = .next t ∧ t.status ≠ 0x00 := by
  obtain ⟨t, h, hs⟩ := next_of_status (i := .ctParse) (s := full) (b := 0x01) (by decide +kernel)
  exact ⟨t, h, by rw [hs]; decide⟩
theorem witness_OkOutcomeWritesOnlyItsColumns : ∃ t, exec .chType full = .next t :=
  next_of_isSome (by decide +kernel)
/-- Two states that differ in every field CT.REMOVE does not read. -/
theorem witness_UnreadFieldsDoNotMatter :
    AgreeOn (readsOf .ctRemove) full { full with
      crcr := 0, wtc := none, wch := none, res := 9, status := 0x47, obuf := [1] } ∧
    ∃ t, exec .ctRemove full = .next t ∧ t.status = 0x00 :=
  ⟨by constructor <;> decide, next_of_status (by decide +kernel)⟩
theorem witness_ReadingTwiceGivesTheSame :
    Instr.ctFind ∈ readsOnly ∧ ∃ t, exec .ctFind full = .next t ∧ t.status = 0x00 :=
  ⟨by decide, next_of_status (by decide +kernel)⟩
theorem witness_MissingOperandIsRefusedFirst :
    Instr.chEncode ∈ readsWtc ∧ Instr.ctAppend ∈ readsWch ∧ Instr.ctAppend ∈ needsLoaded ∧
    State.reset.wtc = none ∧ State.reset.wch = none ∧ State.reset.loaded = false ∧
    (wchState cTest).loaded = false ∧ (wchState cTest).wch ≠ none := by decide
theorem witness_OnlyParseSetsLoaded :
    (inp k3).loaded = false ∧ full.loaded = true ∧ (∃ t, exec .ctParse (inp k3) = .next t) ∧
    ∃ t, exec .ctParse full = .next t :=
  ⟨rfl, rfl, next_of_isSome (by decide +kernel), next_of_isSome (by decide +kernel)⟩
theorem witness_UnboundedCapacitiesNeverRefuse :
    full.caps.buf = none ∧ full.caps.store = none ∧ full.clist.length < full.caps.chunks ∧
    full.ibuf.length < 12 * full.caps.chunks ∧ ∃ t, exec .ctAppend full = .next t :=
  ⟨rfl, rfl, by decide, by decide, next_of_isSome (by decide +kernel)⟩

-- CRC, type codes.

theorem witness_CrcTableHoldsTheFormulasValues : 0 < 256 ∧ 255 < 256 := by decide
theorem witness_OneBitFlipChangesTheChecksum :
    FlipsOneBit [0x54, 0x68] [0x54, 0xE8] 1 ∧ FlipsOneBit [0x54, 0x68] [0x55, 0x68] 0 :=
  ⟨⟨0x68, 7, by decide, rfl, by decide⟩, ⟨0x54, 0, by decide, rfl, by decide⟩⟩
theorem witness_FromBytesTakesExactlyFourLetters :
    be32 0x415A617A = [0x41, 0x5A, 0x61, 0x7A] ∧
    (AsciiLetter 0x41 ∧ AsciiLetter 0x5A ∧ AsciiLetter 0x61 ∧ AsciiLetter 0x7A) ∧
    be32 0x4141417B = [0x41, 0x41, 0x41, 0x7B] ∧
    ¬ (AsciiLetter 0x41 ∧ AsciiLetter 0x41 ∧ AsciiLetter 0x41 ∧ AsciiLetter 0x7B) := by decide
theorem witness_FromTextTakesExactlyFourLetters :
    full.ibuf = [0x52, 0x75, 0x53, 0x74] ∧
    (AsciiLetter 0x52 ∧ AsciiLetter 0x75 ∧ AsciiLetter 0x53 ∧ AsciiLetter 0x74) ∧
    (inp [0x52, 0x75, 0x53]).ibuf.length ≠ 4 ∧
    ∃ b ∈ (inp [0x52, 0x75, 0x31, 0x74]).ibuf, ¬ AsciiLetter b := by decide
theorem witness_RawAndTextShowTheTypeCode :
    full.wtc = some tRuSt ∧ TypeOk tRuSt ∧ full.ibuf = [tRuSt.b0, tRuSt.b1, tRuSt.b2, tRuSt.b3] ∧
    FitsBuf full.caps 4 ∧ ¬ FitsBuf (capped (some 3) 5 none full).caps 4 ∧ State.reset.wtc = none :=
  ⟨rfl, by decide, rfl, fits rfl, not_fits rfl, rfl⟩
theorem witness_PropertyCommandsTestOneByte :
    (wtcState tRuSt).wtc = some tRuSt ∧ UpperLetter tRuSt.b0 ∧ ¬ UpperLetter tRuSt.b1 ∧
    State.reset.wtc = none := by decide
theorem witness_PropertiesOfLettersAreBitFive : TypeOk tRuSt ∧ TypeOk ⟨0x41, 0x5A, 0x61, 0x7A⟩ := by
  decide
theorem witness_PropertyBitsAreIndependent : tRuSt.b0 = tRust.b0 ∧ tRuSt.b1 = tRust.b1 ∧
    trUsT.b2 = tRust.b2 ∧ tRuSt.b3 = tRust.b3 := by decide

-- The framer.

theorem witness_EncodeBuildsTheChunk :
    full.wtc = some tRuSt ∧ TypeOk tRuSt ∧
    ({ full with ibuf := List.replicate 0x7FFFFFFF 0 } : State).ibuf.length ≤ 0x7FFFFFFF ∧
    0x7FFFFFFF < ({ full with ibuf := List.replicate 0x80000000 0 } : State).ibuf.length ∧
    State.reset.wtc = none := by
  refine ⟨rfl, by decide, ?_, ?_, rfl⟩ <;> simp only [List.length_replicate] <;> omega
theorem witness_DecodeReportsTheFirstFailingStep :
    ([0, 0, 0] : Bytes).length < 4 ∧
    ([0x80, 0, 0, 0] : Bytes) = be32 0x80000000 ++ [] ∧ 0x7FFFFFFF < (0x80000000 : Word).toNat ∧
    (f.take 13).length < 12 + (2 : Word).toNat ∧ f.take 13 = be32 2 ++ (f.take 13).drop 4 ∧
    f = be32 2 ++ ([0x52, 0x75, 0x53, 0x74] ++ [0x48, 0x69] ++ be32 0x47381BD1 ++ []) ∧
    TypeOk tRuSt ∧ crc32 [0x52, 0x75, 0x53, 0x74, 0x48, 0x69] = 0x47381BD1 ∧
    crc32 [0x52, 0x75, 0x53, 0x74, 0x48, 0x69] ≠ 0x47381BD0 ∧ ¬ TypeOk ⟨0x52, 0x75, 0x31, 0x74⟩ := by
  decide +kernel
theorem witness_DecodeIsTheInverseOfFrame :
    ChunkOk cRuSt ∧ ChunkOk cIend ∧ decodeAt k3 21 = .ok (cRuSt, 14) :=
  ⟨chunkOk_cRuSt, chunkOk_cIend, by decide +kernel⟩
theorem witness_DecodeCommandLoadsTheChunk :
    (inp f).ibuf.length < (15 : Word).toNat ∧ (14 : Word).toNat ≤ (inp f).ibuf.length ∧
    decodeAt (inp f).ibuf (14 : Word).toNat = .error .truncated ∧
    (inp k3).ibuf = k3.take 21 ++ frame cRuSt ++ k3.drop 35 ∧
    (k3.take 21).length = (21 : Word).toNat ∧ ChunkOk cRuSt :=
  ⟨by decide, by decide, by decide +kernel, by decide, by decide, chunkOk_cRuSt⟩
theorem witness_ShortBuffersGiveLengthErrors :
    (14 ≤ f.length ∧ f.length - 14 < 12) ∧ (3 ≤ f.length ∧ f.length - 3 < 12) ∧
    4 + ([0x52, 0x75, 0x53, 0x74, 0, 0, 0] : Bytes).length < 12 + (0 : Word).toNat ∧
    4 + ([] : Bytes).length < 12 + (0x80000000 : Word).toNat ∧
    decodeAt k3 21 = .ok (cRuSt, 14) :=
  ⟨by decide, by decide, by decide, by decide, by decide +kernel⟩
/-- The first and last byte of the payload and of the CRC field; a type byte that stays a letter (bit 5)
and one that does not. -/
theorem witness_TamperedFrameIsRejected :
    ChunkOk cRuSt ∧ FlipsOneBit (frame cRuSt) ((frame cRuSt).set 8 0x49) 8 ∧ 8 < 12 + cRuSt.length.toNat ∧
    FlipsOneBit (frame cRuSt) ((frame cRuSt).set 13 0xD0) 13 ∧ 13 < 12 + cRuSt.length.toNat ∧
    FlipsOneBit (frame cRuSt) ((frame cRuSt).set 4 0x72) 4 ∧ AsciiLetter 0x72 ∧
    FlipsOneBit (frame cRuSt) ((frame cRuSt).set 7 0xF4) 7 ∧ ¬ AsciiLetter 0xF4 :=
  ⟨chunkOk_cRuSt, ⟨0x48, 0, by decide, rfl, by decide⟩, by decide, ⟨0xD1, 0, by decide, rfl, by decide⟩,
   by decide, ⟨0x52, 5, by decide, rfl, by decide⟩, by decide, ⟨0x74, 7, by decide, rfl, by decide⟩,
   by decide⟩
theorem witness_EncodeSerializeDecodeRoundTrip :
    full.wtc = some tRuSt ∧ TypeOk tRuSt ∧ full.ibuf.length ≤ 0x7FFFFFFF ∧
    FitsBuf full.caps (12 + full.ibuf.length) := ⟨rfl, by decide, by decide, fits rfl⟩
theorem witness_SerializeWritesTheFrame :
    full.wch = some cRuSt ∧ FitsBuf (capped (some 14) 5 none full).caps (12 + cRuSt.length.toNat) ∧
    ¬ FitsBuf (capped (some 13) 5 none full).caps (12 + cRuSt.length.toNat) ∧
    (ChunkOk cRuSt ∧ ∃ t, exec .chSerialize full = .next t ∧ t.status = 0x00) ∧
    State.reset.wch = none :=
  ⟨rfl, fits rfl, not_fits rfl, ⟨chunkOk_cRuSt, next_of_status (by decide +kernel)⟩, rfl⟩
theorem witness_AccessorsReadTheChunk :
    full.wch = some cRuSt ∧ FitsBuf (capped (some 2) 5 none full).caps cRuSt.length.toNat ∧
    ¬ FitsBuf (capped (some 1) 5 none full).caps cRuSt.length.toNat ∧ ChunkOk cRuSt ∧
    State.reset.wch = none := ⟨rfl, fits rfl, not_fits rfl, chunkOk_cRuSt, rfl⟩
theorem utf8Text_hi : Utf8Text [0x48, 0x69] := ⟨[[0x48], [0x69]], rfl, by simp [Utf8Seq]⟩
theorem not_utf8Text_ff : ¬ Utf8Text [0xFF] := by
  rintro ⟨parts, h, hp⟩
  cases parts with
  | nil => simp at h
  | cons p ps =>
    have hq := hp p (by simp)
    cases p with
    | nil => simp [Utf8Seq] at hq
    | cons a as =>
      cases as with
      | nil =>
        simp only [List.flatten_cons, List.cons_append, List.cons.injEq] at h
        simp [Utf8Seq, ← h.1] at hq
      | cons b bs => simp at h
theorem witness_AsTextNeedsValidUtf8 :
    full.wch = some cRuSt ∧ Utf8Text cRuSt.data ∧ FitsBuf full.caps cRuSt.length.toNat ∧
    ¬ FitsBuf (capped (some 1) 5 none full).caps cRuSt.length.toNat ∧
    (payload [0xFF]).wch = some ⟨1, tRuSt, [0xFF], 0⟩ ∧ ¬ Utf8Text [0xFF] ∧
    (ChunkOk cRuSt ∧ ∃ t, exec .chAstext full = .next t ∧ t.status = 0x00) ∧ State.reset.wch = none :=
  ⟨rfl, utf8Text_hi, fits rfl, not_fits rfl, rfl, not_utf8Text_ff,
   ⟨chunkOk_cRuSt, next_of_status (by decide +kernel)⟩, rfl⟩
theorem witness_ViewsOfAChunkAlwaysFit :
    Inv full ∧ Instr.chData ∈ [Instr.chAstext, .chData, .tcTotext] ∧ ∃ t, exec .chData full = .next t :=
  ⟨inv_full, by decide, next_of_isSome (by decide +kernel)⟩

-- The container.

theorem witness_WireLengthIsTheSumOfFrames : ∀ c ∈ k3Chunks, ChunkOk c := chunkOk_k3
theorem witness_ParseAcceptsExactlyWireForms :
    parse k3 = .ok k3Chunks ∧ k3 = wire k3Chunks ∧ ∀ c ∈ k3Chunks, ChunkOk c :=
  ⟨by decide +kernel, by decide, chunkOk_k3⟩
theorem witness_ParseLoopDecodesFrameByFrame :
    k3.length ≤ 8 + 47 ∧ 8 < k3.length ∧ decodeAt k3 8 = .ok (cHead, 13) ∧
    decodeAt k3 46 = .error .truncated ∧ k3.length ≤ 46 + 1 ∧ k3.length ≤ 47 := by decide +kernel
theorem witness_ParseCommandIsAllOrNothing :
    (¬ ∃ r : Bytes, (inp (k3.take 7)).ibuf = sig ++ r) ∧
    (inp (k3 ++ [0])).ibuf = wire k3Chunks ++ [0] ∧ ([0] : Bytes) ≠ [] ∧
    decodeAt [0] 0 = .error .truncated ∧ (inp k3).ibuf = wire k3Chunks ∧
    (∀ c ∈ k3Chunks, ChunkOk c) ∧ FitsList (capped none 3 (some 3) (inp k3)).caps k3Chunks ∧
    ¬ FitsList (capped none 2 none (inp k3)).caps k3Chunks ∧
    ¬ FitsList (capped none 3 (some 2) (inp k3)).caps k3Chunks ∧
    (inp (k3.take 8)).ibuf = [137, 80, 78, 71, 13, 10, 26, 10] := by
  refine ⟨?_, by decide, by decide, by decide +kernel, by decide, chunkOk_k3,
    (fitsList_iff ..).1 (by decide), fun h => ?_, fun h => ?_, by decide⟩
  · rintro ⟨r, h⟩
    simp [inp, k3, sig] at h
  · exact absurd ((fitsList_iff ..).2 h) (by decide)
  · exact absurd ((fitsList_iff ..).2 h) (by decide)
theorem witness_AppendAddsAtTheEnd :
    full.wch = some cRuSt ∧ full.loaded = true ∧
    FitsList (capped none 4 none full).caps (full.clist ++ [cRuSt]) ∧
    ¬ FitsList (capped none 3 none full).caps (full.clist ++ [cRuSt]) ∧
    (wchState cTest).wch = some cTest ∧ (wchState cTest).loaded = false ∧ State.reset.wch = none :=
  ⟨rfl, rfl, (fitsList_iff ..).1 (by decide),
   fun h => absurd ((fitsList_iff ..).2 h) (by decide), rfl, rfl, rfl⟩
theorem witness_RemoveTakesTheFirstMatch :
    full.loaded = true ∧ full.clist = [cHead] ++ cRuSt :: [cIend] ∧
    full.ibuf = [cRuSt.type.b0, cRuSt.type.b1, cRuSt.type.b2, cRuSt.type.b3] ∧
    (∀ d ∈ [cHead], d.type ≠ cRuSt.type) ∧
    (∀ d ∈ (loaded k3Chunks []).clist,
      (loaded k3Chunks []).ibuf ≠ [d.type.b0, d.type.b1, d.type.b2, d.type.b3]) ∧
    State.reset.loaded = false := by decide
theorem witness_FindCopiesTheFirstMatch :
    full.loaded = true ∧ full.clist = [cHead] ++ cRuSt :: [cIend] ∧
    full.ibuf = [cRuSt.type.b0, cRuSt.type.b1, cRuSt.type.b2, cRuSt.type.b3] ∧
    (∀ d ∈ [cHead], d.type ≠ cRuSt.type) ∧
    (∀ d ∈ (loaded k3Chunks [0x52, 0x75, 0x53]).clist, (loaded k3Chunks [0x52, 0x75, 0x53]).ibuf
      ≠ [d.type.b0, d.type.b1, d.type.b2, d.type.b3]) ∧
    State.reset.loaded = false := by decide
theorem witness_SerializeWritesTheWireForm :
    full.loaded = true ∧ FitsBuf (capped (some 47) 5 none full).caps (serializedLength full.clist) ∧
    parse k3 = .ok full.clist ∧
    ¬ FitsBuf (capped (some 46) 5 none full).caps (serializedLength full.clist) ∧
    ((∀ c ∈ full.clist, ChunkOk c) ∧ ∃ t, exec .ctSerialize full = .next t ∧ t.status = 0x00) ∧
    State.reset.loaded = false :=
  ⟨rfl, fits rfl, by decide +kernel, not_fits rfl,
   ⟨chunkOk_k3, next_of_status (by decide +kernel)⟩, rfl⟩
/-- With an unbounded CAP_BUF every text fits; whether one does not fit a bounded CAP_BUF depends on
DESCRIBE_FMT, which is open, so the last part takes it as given. -/
theorem witness_DescribeDependsOnHeadersAlone :
    full.loaded = true ∧ (∀ n, FitsBuf full.caps n) ∧ State.reset.loaded = false ∧
    [cRuSt].map (fun c => (c.type, c.length, c.crc)) =
      [({ cRuSt with data := [0, 0] } : ChunkRec)].map (fun c => (c.type, c.length, c.crc)) ∧
    (∃ t, exec .ctDescribe full = .next t) ∧
    ∀ n, 0 < n → ¬ FitsBuf (capped (some (n - 1)) 5 none full).caps n :=
  ⟨rfl, fun _ => fits rfl, rfl, rfl, ⟨_, rfl⟩,
   fun n hn h => absurd (h (n - 1) rfl) (by omega)⟩
theorem witness_ParseAndSerializeRoundTrip :
    (∃ t, exec .ctParse (inp k3) = .next t ∧ t.status = 0x00) ∧
    FitsBuf (inp k3).caps (inp k3).ibuf.length ∧ (∀ c ∈ full.clist, ChunkOk c) ∧
    FitsList full.caps full.clist ∧ ∃ t, exec .ctSerialize full = .next t ∧ t.status = 0x00 :=
  ⟨next_of_status (by decide +kernel), fits rfl, chunkOk_k3, (fitsList_iff ..).1 (by decide),
   next_of_status (by decide +kernel)⟩
theorem witness_AppendThenRemoveByType :
    (∃ t, exec .ctAppend { full with wch := some cTest } = .next t ∧ t.status = 0x00) ∧
    (∀ d ∈ full.clist, d.type ≠ cTest.type) ∧
    (∃ t, exec .ctAppend full = .next t ∧ t.status = 0x00) ∧
    full.clist = [cHead] ++ cRuSt :: [cIend] ∧ cRuSt.type = cRuSt.type ∧
    ∀ e ∈ [cHead], e.type ≠ cRuSt.type :=
  ⟨next_of_status (by decide +kernel), by decide, next_of_status (by decide +kernel), rfl, rfl,
   by decide⟩

-- Invariants.

theorem witness_EveryStepKeepsTheInvariant :
    Inv (host [.cmd 0x3100000000] full) ∧ ∃ t, step (host [.cmd 0x3100000000] full) = .next t :=
  ⟨{ inv_full with }, next_of_isSome (by decide +kernel)⟩
theorem witness_OnlyAnOversizedWriteStops :
    (∃ t, step full = .next t) ∧
    (host [.wribuf [1, 2]] (capped (some 1) 5 none full)).moves = .wribuf [1, 2] :: [] ∧
    ¬ FitsBuf (capped (some 1) 5 none full).caps ([1, 2] : Bytes).length :=
  ⟨⟨_, rfl⟩, rfl, not_fits rfl⟩

end Sys2Proof.Tests
end

section
/-! Byte order (R12): `be32` and `fromBe32` in terms of numbers, and the two inverse laws. -/

namespace Sys2Proof.Machine

/-- The byte of a word from bit `k` up is a base-256 digit of the word's number. -/
theorem extractByte_eq_ofNat (v : Word) (k : Nat) :
    v.extractLsb' k 8 = BitVec.ofNat 8 (v.toNat / 2 ^ k % 256) := by
  apply BitVec.eq_of_toNat_eq
  simp [Nat.shiftRight_eq_div_pow]

/-- The bytes of be32 are the base-256 digits of the word, the most significant first. -/
theorem be32_eq_digits (v : Word) :
    be32 v = [BitVec.ofNat 8 (v.toNat / 2 ^ 24), BitVec.ofNat 8 (v.toNat / 2 ^ 16 % 256),
      BitVec.ofNat 8 (v.toNat / 2 ^ 8 % 256), BitVec.ofNat 8 (v.toNat % 256)] := by
  have top : v.toNat / 2 ^ 24 % 256 = v.toNat / 2 ^ 24 := by omega
  simp only [be32, extractByte_eq_ofNat, top, Nat.pow_zero, Nat.div_one]

/-- The positional sum of four bytes fits a word, so `fromBe32` does not wrap. -/
@[simp] theorem fromBe32_toNat (s0 s1 s2 s3 : Byte) :
    (fromBe32 s0 s1 s2 s3).toNat =
      2 ^ 24 * s0.toNat + 2 ^ 16 * s1.toNat + 2 ^ 8 * s2.toNat + s3.toNat := by
  rw [fromBe32, BitVec.toNat_ofNat, Nat.mod_eq_of_lt (by omega)]

/-- A word is the positional sum of its own digits. -/
@[simp] theorem wordOf_be32 (v : Word) : wordOf (be32 v) = some v := by
  rw [be32_eq_digits, wordOf, Option.some_inj]
  apply BitVec.eq_of_toNat_eq
  simp only [fromBe32_toNat, BitVec.toNat_ofNat]
  omega

/-- The digits of a positional sum of bytes are those bytes. -/
@[simp] theorem be32_fromBe32 (s0 s1 s2 s3 : Byte) :
    be32 (fromBe32 s0 s1 s2 s3) = [s0, s1, s2, s3] := by
  simp only [be32_eq_digits, fromBe32_toNat, List.cons.injEq, and_true]
  refine ⟨?_, ?_, ?_, ?_⟩ <;>
  · apply BitVec.eq_of_toNat_eq
    rw [BitVec.toNat_ofNat]
    omega

/-- Settles O20: the digits of be32, the sum of from_be32, and each law of the pair by arithmetic on
base-256 digits. -/
theorem bigEndianConversionsAreInverse : Obligations.BigEndianConversionsAreInverse :=
  ⟨be32_eq_digits, fromBe32_toNat, wordOf_be32, be32_fromBe32⟩

end Sys2Proof.Machine
end

section
/-! The decoder against the opcode map (R82, R83, R86): the value of `decode` on each row of the map and
off it, and what presenting an undefined opcode does. -/

namespace Sys2Proof.Machine

/-- A word with the CMD_OP of a row decodes to that row's command (R82). -/
theorem decode_cmdWord_of_mem {p : Byte × (Word → Instr)} (hp : p ∈ opcodeMap) (arg : Word) :
    decode (cmdWord p.1 arg) = .ok (p.2 arg) := by
  simp only [decode, Laws.cmdOp_cmdWord, Laws.cmdArg_cmdWord]
  fin_cases hp <;> rfl

/-- The opcodes outside the ranges of R86 are the opcodes of the map's rows. -/
theorem undefinedOpcode_iff (op : Byte) : UndefinedOpcode op ↔ ∀ p ∈ opcodeMap, p.1 ≠ op := by
  simp only [opcodeMap, List.mem_append, List.mem_cons, List.not_mem_nil, or_false, or_imp,
    forall_and, forall_eq]
  constructor <;> bv_omega

/-- Every opcode is undefined or has its row in the map. -/
theorem undefinedOpcode_or_mem (op : Byte) : UndefinedOpcode op ∨ ∃ p ∈ opcodeMap, p.1 = op := by
  by_cases h : UndefinedOpcode op
  · exact .inl h
  · simp only [undefinedOpcode_iff, not_forall, not_not, exists_prop] at h
    exact .inr h

/-- An undefined opcode meets no arm of `decode` but the last. -/
theorem decode_cmdWord_of_undefined {op : Byte} (h : UndefinedOpcode op) (arg : Word) :
    decode (cmdWord op arg) = .error (.undefinedOp op) := by
  simp only [decode, Laws.cmdOp_cmdWord]
  split
  case h_28 => rfl
  all_goals omega -- the arm's opcode is in none of R86's ranges

/-- R83's table: a row other than those of CRC.UPDB, TC.FROMBYTES and CH.DECODE ignores CMD_ARG. -/
theorem row_ignores_arg {p : Byte × (Word → Instr)} (hp : p ∈ opcodeMap) (h01 : p.1 ≠ 0x01)
    (h10 : p.1 ≠ 0x10) (h21 : p.1 ≠ 0x21) (arg arg' : Word) : p.2 arg = p.2 arg' := by
  fin_cases hp
  any_goals rfl
  · exact absurd rfl h01
  · exact absurd rfl h10
  · exact absurd rfl h21

/-- The step of a block whose host presents a command word next is that word's command (R8, R268). -/
theorem step_of_cmd {s : State} {w : CmdWord} {ms : List HostMove} (h : s.moves = .cmd w :: ms) :
    step s = runCmd w (s.withMoves ms) := by
  simp only [step, nextMove, h, runMove]

/-- A word that decodes to no command is REFUSED with UNDEFINED_OP: STATUS alone is written (R86). -/
theorem runCmd_of_decode_error {w : CmdWord} {e : DecodeError} (h : decode w = .error e) (s : State) :
    runCmd w s = .next { s with status := 0x17 } := by
  simp only [runCmd, h, onBlock, refuse_eq]
  rfl

/-- Settles O1: row by row on the map, and off the map by the ranges of R86. -/
theorem decodeFollowsTheOpcodeMap : Obligations.DecodeFollowsTheOpcodeMap :=
  ⟨rfl, fun _ hp => decode_cmdWord_of_mem hp,
   fun op arg h => decode_cmdWord_of_undefined ((undefinedOpcode_iff op).2 h) arg⟩

/-- Settles O2: an opcode is in a range of R86 or has a row, and a row decodes to a command; the refusal
of a word that decodes to none is the step. -/
theorem undefinedOpcodesAreRefused : Obligations.UndefinedOpcodesAreRefused := by
  refine ⟨fun op arg => ⟨fun h i => ?_, fun h => ?_⟩, fun s op arg ms hop hms => ?_⟩
  · simp [decode_cmdWord_of_undefined h]
  · obtain hop | ⟨p, hp, rfl⟩ := undefinedOpcode_or_mem op
    · exact hop
    · exact absurd (decode_cmdWord_of_mem hp arg) (h _)
  · rw [step_of_cmd hms, runCmd_of_decode_error (decode_cmdWord_of_undefined hop arg)]
    rfl

/-- Bits 7:0 of a word, as a number (R83: CRC.UPDB's field). -/
theorem setWidth_eight_eq_ofNat_mod (arg : Word) :
    arg.setWidth 8 = BitVec.ofNat 8 (arg.toNat % 256) :=
  BitVec.eq_of_toNat_eq (by simp)

/-- Settles O3: the three rows that use CMD_ARG, and independence of it on every other row and off the
map. -/
theorem unusedArgumentBitsAreIgnored : Obligations.UnusedArgumentBitsAreIgnored := by
  refine ⟨fun arg => ⟨?_, ?_, ?_⟩, fun op arg arg' h01 h10 h21 => ?_⟩
  · rw [← setWidth_eight_eq_ofNat_mod]
    exact decode_cmdWord_of_mem (p := (0x01, fun a => .crcUpdb (a.setWidth 8)))
      (by simp [opcodeMap]) arg
  · exact decode_cmdWord_of_mem (p := (0x10, .tcFrombytes)) (by simp [opcodeMap]) arg
  · exact decode_cmdWord_of_mem (p := (0x21, .chDecode)) (by simp [opcodeMap]) arg
  · obtain hop | ⟨p, hp, rfl⟩ := undefinedOpcode_or_mem op
    · rw [decode_cmdWord_of_undefined hop, decode_cmdWord_of_undefined hop]
    · rw [decode_cmdWord_of_mem hp, decode_cmdWord_of_mem hp, row_ignores_arg hp h01 h10 h21 arg arg']

end Sys2Proof.Machine
end

section
/-! The CRC unit's byte step (R121 to R123): a bit step is linear for XOR, so eight of them act on the
low byte and on the upper bits apart. The low byte's part is the table's word, and the upper bits are
only shifted down. -/

namespace Sys2Proof.Machine

/-- A bit step is linear for XOR: where both words shift out a 1, the polynomial cancels. -/
theorem bitStep_xor (a b : Word) : bitStep (a ^^^ b) = bitStep a ^^^ bitStep b := by
  simp only [bitStep, BitVec.getLsbD_xor, BitVec.ushiftRight_xor_distrib]
  cases a.getLsbD 0 <;> cases b.getLsbD 0 <;>
    simp only [Bool.xor_self, Bool.xor_false, Bool.false_xor, Bool.false_eq_true, if_true, if_false]
  case false.true => exact BitVec.xor_assoc ..
  case true.false => ac_rfl
  case true.true =>
    calc a >>> 1 ^^^ b >>> 1
      _ = (a >>> 1 ^^^ b >>> 1) ^^^ (poly ^^^ poly) := by rw [BitVec.xor_self, BitVec.xor_zero]
      _ = (a >>> 1 ^^^ poly) ^^^ (b >>> 1 ^^^ poly) := by ac_rfl

theorem bitSteps_xor (n : Nat) (a b : Word) :
    bitSteps n (a ^^^ b) = bitSteps n a ^^^ bitSteps n b := by
  induction n generalizing a b with
  | zero => rfl
  | succ n ih => simp only [bitSteps, bitStep_xor, ih]

/-- Bit steps that shift out only zeros never XOR the polynomial. -/
theorem bitSteps_eq_ushiftRight (n : Nat) (c : Word) (h : ∀ i < n, c.getLsbD i = false) :
    bitSteps n c = c >>> n := by
  induction n generalizing c with
  | zero => rfl
  | succ n ih =>
    have first : bitStep c = c >>> 1 := by
      rw [bitStep, h 0 n.succ_pos]
      rfl
    have rest : ∀ i < n, (c >>> 1).getLsbD i = false := fun i hi => by
      rw [BitVec.getLsbD_ushiftRight]
      exact h (1 + i) (by omega)
    rw [bitSteps, first, ih _ rest, ← BitVec.shiftRight_add, Nat.add_comm]

/-- A word is its low byte and its upper bits. -/
theorem lowByte_xor_upperBits (x : Word) :
    (x.extractLsb' 0 8).setWidth 32 ^^^ (x >>> 8 <<< 8) = x := by
  apply BitVec.eq_of_getLsbD_eq
  intro i hi
  simp only [BitVec.getLsbD_xor, BitVec.getLsbD_setWidth, BitVec.getLsbD_extractLsb',
    BitVec.getLsbD_shiftLeft, BitVec.getLsbD_ushiftRight, hi, decide_true, Bool.true_and, Nat.zero_add]
  by_cases low : i < 8
  · simp [low]
  · simp [low, show 8 + (i - 8) = i by omega]

/-- A word's low byte as a number, by mask and by bit field. -/
theorem and_0xFF_toNat (x : Word) : (x &&& 0xFF).toNat = (x.extractLsb' 0 8).toNat := by
  rw [BitVec.toNat_and, BitVec.extractLsb'_toNat]
  exact Nat.and_two_pow_sub_one_eq_mod x.toNat 8

/-- Folding a byte into a register leaves the register's upper bits. -/
theorem xor_byte_ushiftRight (c : Word) (b : Byte) : (c ^^^ b.setWidth 32) >>> 8 = c >>> 8 := by
  have byte_gone : (b.setWidth 32 : Word) >>> 8 = 0#32 := by
    apply BitVec.eq_of_toNat_eq
    simp only [BitVec.toNat_ushiftRight, BitVec.toNat_setWidth, Nat.shiftRight_eq_div_pow,
      BitVec.toNat_ofNat]
    omega
  rw [BitVec.ushiftRight_xor_distrib, byte_gone, BitVec.xor_zero]

/-- Eight bit steps shift the upper bits down by a byte. -/
theorem bitSteps_eight_upperBits (x : Word) : bitSteps 8 (x >>> 8 <<< 8) = x >>> 8 := by
  rw [bitSteps_eq_ushiftRight 8 _ fun i hi => by simp [hi]]
  apply BitVec.eq_of_toNat_eq
  simp only [BitVec.toNat_ushiftRight, BitVec.toNat_shiftLeft, Nat.shiftRight_eq_div_pow,
    Nat.shiftLeft_eq]
  omega

/-- The byte step needs eight bit steps of one byte only. -/
theorem crcByte_eq (c : Word) (b : Byte) :
    crcByte c b =
      bitSteps 8 (((c ^^^ b.setWidth 32).extractLsb' 0 8).setWidth 32) ^^^ (c >>> 8) := by
  rw [crcByte]
  conv_lhs => rw [← lowByte_xor_upperBits (c ^^^ b.setWidth 32)]
  rw [bitSteps_xor, bitSteps_eight_upperBits, xor_byte_ushiftRight]

/-- The 256 transcribed words, compared with the formula (R121). -/
theorem crcTab_eq_map : crcTab = (List.range 256).map fun n => bitSteps 8 (BitVec.ofNat 32 n) := by
  decide +kernel

/-- The table's word at a byte is eight bit steps from it. -/
theorem crcTab_getElem?_byte (b : Byte) : crcTab[b.toNat]? = some (bitSteps 8 (b.setWidth 32)) := by
  have small : b.toNat < 256 := b.isLt
  simp only [crcTab_eq_map, List.getElem?_map, List.getElem?_range small, Option.map_some,
    BitVec.ofNat_toNat]

/-- Settles O21: entry `n` of the table is the formula's word for `n`. -/
theorem crcTableHoldsTheFormulasValues : Obligations.CrcTableHoldsTheFormulasValues :=
  ⟨by simp [crcTab_eq_map], fun n hn => by simp [crcTab_eq_map, List.getElem?_range hn]⟩

/-- Settles O22: the byte step splits into the low byte's eight bit steps, which are the table's word,
and the shifted register. -/
theorem tableByteStepEqualsBitSerial : Obligations.TableByteStepEqualsBitSerial := by
  intro c b
  rw [crcByteTab, crcTab_getElem?_byte, crcByte_eq, Option.map_some]

end Sys2Proof.Machine
end

section
/-! The commands of the CRC unit as whole next states, and the stream of CRC.INIT, CRC.UPDB and
CRC.FINAL (R124 to R129). -/

namespace Sys2Proof.Machine

/-- R124. -/
theorem exec_crcInit (s : State) :
    exec .crcInit s = .next { s with crcr := crcInit, status := 0x00 } := rfl

/-- R125. -/
theorem exec_crcUpdb (b : Byte) (s : State) :
    exec (.crcUpdb b) s = .next { s with crcr := crcByte s.crcr b, status := 0x00 } := rfl

/-- R128. -/
theorem exec_crcFinal (s : State) :
    exec .crcFinal s = .next { s with res := s.crcr ^^^ crcXorOut, status := 0x00 } := rfl

/-- R127. -/
theorem exec_crcCalc (s : State) :
    exec .crcCalc s =
      .next { s with crcr := crcRun crcInit s.ibuf, res := crc32 s.ibuf, status := 0x00 } := rfl

/-- A command with a next state hands it to the commands after it. -/
theorem execAll_cons_of_next {i : Instr} {s t : State} (h : exec i s = .next t) (is : List Instr) :
    execAll (i :: is) s = execAll is t := by
  rw [execAll, h]

/-- One CRC.UPDB per byte folds the bytes into CRCR. -/
theorem execAll_map_crcUpdb (m : Bytes) (c : Word) (s : State) (is : List Instr) :
    execAll (m.map .crcUpdb ++ is) { s with crcr := c, status := 0x00 } =
      execAll is { s with crcr := crcRun c m, status := 0x00 } := by
  induction m generalizing c with
  | nil => rfl
  | cons b m ih =>
    rw [List.map_cons, List.cons_append, execAll_cons_of_next (exec_crcUpdb ..)]
    exact ih (crcByte c b)

/-- A stream up to any point: the commands after it meet the register of the bytes so far. -/
theorem execAll_crcInit_updb (m : Bytes) (s : State) (is : List Instr) :
    execAll (.crcInit :: m.map .crcUpdb ++ is) s =
      execAll is { s with crcr := crcRun crcInit m, status := 0x00 } := by
  rw [List.cons_append, execAll_cons_of_next (exec_crcInit s), execAll_map_crcUpdb]

/-- A whole stream leaves the register in CRCR and the checksum in RES. -/
theorem execAll_crcStream (m : Bytes) (s : State) :
    execAll (.crcInit :: m.map .crcUpdb ++ [.crcFinal]) s =
      .next { s with crcr := crcRun crcInit m, res := crc32 m, status := 0x00 } := by
  rw [execAll_crcInit_updb, execAll_cons_of_next (exec_crcFinal _)]
  rfl

/-- The final XOR undone: the register before it (R129). -/
theorem crc32_xor_xorOut (m : Bytes) : crc32 m ^^^ 0xFFFFFFFF = crcRun crcInit m := by
  rw [crc32, crcXorOut, BitVec.xor_assoc, BitVec.xor_self, BitVec.xor_zero]

/-- Settles O23: the two commands' next states, and their rows of the opcode map. -/
theorem crcInitAndFinalAlwaysComplete : Obligations.CrcInitAndFinalAlwaysComplete :=
  ⟨decode_cmdWord_of_mem (p := (0x00, fun _ => .crcInit)) (by simp [opcodeMap]),
   decode_cmdWord_of_mem (p := (0x02, fun _ => .crcFinal)) (by simp [opcodeMap]),
   fun s => ⟨exec_crcInit s, exec_crcFinal s⟩⟩

/-- Settles O24: the bit-serial byte step the command uses, split into the table's word and the shifted
register; the byte is the row's operand. -/
theorem crcUpdbFoldsItsByte : Obligations.CrcUpdbFoldsItsByte := by
  refine ⟨fun s b => ?_, fun s arg => ?_⟩
  · have table := crcTab_getElem?_byte ((s.crcr ^^^ b.setWidth 32).extractLsb' 0 8)
    rw [← and_0xFF_toNat] at table
    exact ⟨_, table, by rw [exec_crcUpdb, crcByte_eq]⟩
  · rw [runCmd, decode_cmdWord_of_mem (p := (0x01, fun a => .crcUpdb (a.setWidth 8)))
      (by simp [opcodeMap])]

/-- Settles O25: the stream's register after `x ++ y` and after `x`. -/
theorem streamingGivesTheChecksum : Obligations.StreamingGivesTheChecksum := by
  intro x y s
  rw [crc32_xor_xorOut, crc32_xor_xorOut]
  refine ⟨execAll_crcStream (x ++ y) s, ?_⟩
  rw [← List.append_nil (_ :: _), execAll_crcInit_updb, execAll]

/-- Settles O26: CRC.CALC's next state is that of the stream over IBUF. -/
theorem crcCalcIsTheWholeStream : Obligations.CrcCalcIsTheWholeStream := by
  refine ⟨decode_cmdWord_of_mem (p := (0x03, fun _ => .crcCalc)) (by simp [opcodeMap]),
    fun s => ⟨?_, ?_⟩⟩
  · rw [exec_crcCalc, execAll_crcStream]
  · rw [exec_crcCalc, crc32_xor_xorOut]

end Sys2Proof.Machine
end

section
/-! The type-code unit (R142 to R152): what a text has to be to become a type code, the commands as whole
next states, and the four property bits. -/

namespace Sys2Proof.Machine

/-- A row that ignores CMD_ARG gives its command with every CMD_ARG (R82, R83). -/
theorem codedAs_of_mem {op : Byte} {i : Instr} (h : (op, fun _ => i) ∈ opcodeMap) : CodedAs op i :=
  decode_cmdWord_of_mem (p := (op, fun _ => i)) h

/-- What a command makes of the block is its next state; nothing around the block changes. -/
theorem exec_eq_of_block_eq {i : Instr} {s : State} {b : Block}
    (h : Block.exec s.caps i s.toBlock = b) : exec i s = .next { s with toBlock := b } :=
  h ▸ exec_eq i s

/-- R140 over the bytes in wire order. -/
theorem typeOk_iff_forall_mem (t : TypeCode) : TypeOk t ↔ ∀ b ∈ typeBytes t, AsciiLetter b := by
  simp only [typeBytes, List.forall_mem_cons, List.not_mem_nil, false_imp_iff, implies_true, and_true]

/-- R142: TC.FROMBYTES checks the type code whose bytes are those of CMD_ARG, the most significant
first. -/
theorem exec_tcFrombytes {w : Word} {t : TypeCode} (hw : be32 w = typeBytes t) (s : State) :
    (TypeOk t → exec (.tcFrombytes w) s = .next { s with wtc := some t, status := 0x00 }) ∧
    (¬ TypeOk t → exec (.tcFrombytes w) s = .next { s with status := 0x04 }) := by
  obtain rfl : unpack4 w = t := (typeBytes_inj ..).1 hw
  obtain ⟨letters, others⟩ := setWtcChecked_eq (unpack4 w) s.toBlock
  exact ⟨fun h => exec_eq_of_block_eq (letters h), fun h => exec_eq_of_block_eq (others h)⟩

/-- R143, a text of four bytes: it is checked as a type code. -/
theorem cmdTcFromtext_of_typeBytes {b : Block} {t : TypeCode} (h : b.ibuf = typeBytes t) :
    cmdTcFromtext b = setWtcChecked t b := by
  simp only [cmdTcFromtext, inputBytes, h, typeBytes]

/-- R143, a text of another length. -/
theorem cmdTcFromtext_of_ne_typeBytes {b : Block} (h : ∀ t, b.ibuf ≠ typeBytes t) :
    cmdTcFromtext b = { b with status := 0x04 } := by
  unfold cmdTcFromtext
  split
  case h_1 b0 b1 b2 b3 text => exact absurd text (h ⟨b0, b1, b2, b3⟩)
  case h_2 => exact raise_eq .invalidEncoding b

/-- R143: TC.FROMTEXT of the bytes of a type code of letters. -/
theorem exec_tcFromtext_of_letters {s : State} {t : TypeCode} (text : s.ibuf = typeBytes t)
    (ht : TypeOk t) : exec .tcFromtext s = .next { s with wtc := some t, status := 0x00 } :=
  exec_eq_of_block_eq <| (cmdTcFromtext_of_typeBytes text).trans ((setWtcChecked_eq t _).1 ht)

/-- R143: TC.FROMTEXT of a text that is no type code of letters. -/
theorem exec_tcFromtext_of_not_letters {s : State} (h : ∀ t, s.ibuf = typeBytes t → ¬ TypeOk t) :
    exec .tcFromtext s = .next { s with status := 0x04 } := by
  refine exec_eq_of_block_eq (?_ : cmdTcFromtext s.toBlock = _)
  by_cases four : ∃ t, s.ibuf = typeBytes t
  · obtain ⟨t, text⟩ := four
    exact (cmdTcFromtext_of_typeBytes text).trans ((setWtcChecked_eq t _).2 (h t text))
  · exact cmdTcFromtext_of_ne_typeBytes (not_exists.1 four)

/-- R144. -/
theorem exec_tcRaw {s : State} {t : TypeCode} (h : s.wtc = some t) :
    exec .tcRaw s = .next { s with res := pack4 t, status := 0x00 } :=
  exec_eq_of_block_eq ((needWtc_eq s.toBlock _).2 t h)

/-- R145, with CAPACITY as the last check (R233). -/
theorem exec_tcTotext {s : State} {t : TypeCode} (h : s.wtc = some t) :
    (FitsBuf s.caps 4 → exec .tcTotext s = .next { s with obuf := typeBytes t, status := 0x00 }) ∧
    (¬ FitsBuf s.caps 4 → exec .tcTotext s = .next { s with status := 0x47 }) := by
  have operand : cmdTcTotext s.caps s.toBlock = emit s.caps 4 (typeBytes t) s.toBlock :=
    (needWtc_eq s.toBlock _).2 t h
  obtain ⟨fit, noFit⟩ := emit_eq s.caps 4 (typeBytes t) s.toBlock
  exact ⟨fun hk => exec_eq_of_block_eq (operand.trans (fit hk)),
    fun hk => exec_eq_of_block_eq (operand.trans (noFit hk))⟩

/-- A command that starts from WTC is REFUSED with NO_OPERAND while WTC is not valid (R22, R232). -/
theorem exec_of_wtc_none {i : Instr} {s : State} {f : TypeCode → Block}
    (hi : Block.exec s.caps i s.toBlock = needWtc s.toBlock f) (h : s.wtc = none) :
    exec i s = .next { s with status := 0x27 } :=
  exec_eq_of_block_eq (hi.trans ((needWtc_eq s.toBlock f).1 h))

/-- R147 to R151: a property command with WTC valid. -/
theorem exec_of_wtcProperty {i : Instr} {s : State} (p : TypeCode → Bool) {t : TypeCode}
    (hi : Block.exec s.caps i s.toBlock = wtcProperty p s.toBlock) (h : s.wtc = some t) :
    exec i s = .next { s with res := boolWord (p t), status := 0x00 } :=
  exec_eq_of_block_eq (hi.trans ((needWtc_eq s.toBlock _).2 t h))

/-- The uppercase test is the range of R14. -/
theorem isUpper_iff (b : Byte) : isUpper b = true ↔ UpperLetter b := by
  simp only [isUpper, Bool.and_eq_true, decide_eq_true_eq]

/-- The uppercase test as RES holds it (R24). -/
theorem boolWord_isUpper (b : Byte) : boolWord (isUpper b) = if UpperLetter b then 1 else 0 := by
  simp only [boolWord, isUpper_iff]

/-- The negated test as RES holds it: TC.ISSAFE's polarity (90_conflicts.md C3). -/
theorem boolWord_not_isUpper (b : Byte) :
    boolWord (!isUpper b) = if UpperLetter b then 0 else 1 := by
  simp only [boolWord, ← isUpper_iff, Bool.not_eq_true', ← Bool.not_eq_true, ite_not]

/-- A letter of the case asked for. -/
def letterOfCase (upper : Bool) : Byte := if upper then 0x41 else 0x61

theorem asciiLetter_letterOfCase (upper : Bool) : AsciiLetter (letterOfCase upper) := by
  cases upper <;> decide

@[simp] theorem isUpper_letterOfCase (upper : Bool) : isUpper (letterOfCase upper) = upper := by
  cases upper <;> decide

/-- Settles O28: the bytes of CMD_ARG are those of the type code the command checks. -/
theorem fromBytesTakesExactlyFourLetters : Obligations.FromBytesTakesExactlyFourLetters :=
  ⟨decode_cmdWord_of_mem (p := (0x10, .tcFrombytes)) (by simp [opcodeMap]),
   fun s _ b0 b1 b2 b3 hw => exec_tcFrombytes (t := ⟨b0, b1, b2, b3⟩) hw s⟩

/-- Settles O29: a text of another length, or with a byte that is no letter, is not the text of a type
code of letters. -/
theorem fromTextTakesExactlyFourLetters : Obligations.FromTextTakesExactlyFourLetters := by
  refine ⟨codedAs_of_mem (by simp [opcodeMap]), fun s => ⟨fun b0 b1 b2 b3 text letters => ?_,
    fun bad => exec_tcFromtext_of_not_letters fun t text letters => ?_⟩⟩
  · exact exec_tcFromtext_of_letters (t := ⟨b0, b1, b2, b3⟩) text letters
  · rw [text] at bad
    obtain len | ⟨b, hb, other⟩ := bad
    · exact len (typeBytes_length t)
    · exact other ((typeOk_iff_forall_mem t).1 letters b hb)

/-- Settles O30: the packed word's number is the positional sum, and OBUF holds the bytes TC.FROMTEXT
takes. -/
theorem rawAndTextShowTheTypeCode : Obligations.RawAndTextShowTheTypeCode := by
  refine ⟨codedAs_of_mem (by simp [opcodeMap]), codedAs_of_mem (by simp [opcodeMap]),
    fun s => ⟨fun t h => ?_, fun h => ⟨exec_of_wtc_none rfl h, exec_of_wtc_none rfl h⟩⟩⟩
  obtain ⟨fit, noFit⟩ := exec_tcTotext h
  exact ⟨⟨pack4 t, exec_tcRaw h, fromBe32_toNat ..⟩, fit, noFit,
    fun ht _ text => exec_tcFromtext_of_letters text ht⟩

/-- Settles O33: each property is the case test of its byte, and a letter of each case exists for every
byte. -/
theorem propertyBitsAreIndependent : Obligations.PropertyBitsAreIndependent := by
  refine ⟨fun t u => ⟨congrArg isUpper, congrArg isUpper, congrArg isUpper,
    congrArg fun b => !isUpper b⟩, fun c p r f => ?_⟩
  refine ⟨⟨letterOfCase c, letterOfCase p, letterOfCase r, letterOfCase !f⟩, ?_, ?_⟩
  · simp only [TypeOk, asciiLetter_letterOfCase, and_self]
  · simp [isCritical, isPublic, isReservedBitValid, isSafeToCopy]

/-- Settles O31: each command is `wtcProperty` of the case test of one byte, and TC.ISVALID's property
is TC.ISRSV's. -/
theorem propertyCommandsTestOneByte : Obligations.PropertyCommandsTestOneByte := by
  refine ⟨codedAs_of_mem (by simp [opcodeMap]), codedAs_of_mem (by simp [opcodeMap]),
    codedAs_of_mem (by simp [opcodeMap]), codedAs_of_mem (by simp [opcodeMap]),
    codedAs_of_mem (by simp [opcodeMap]), fun s => ⟨fun t h => ?_, fun h => ?_, rfl⟩⟩
  · simp only [← boolWord_isUpper, ← boolWord_not_isUpper]
    exact ⟨exec_of_wtcProperty isCritical rfl h, exec_of_wtcProperty isPublic rfl h,
      exec_of_wtcProperty isReservedBitValid rfl h, exec_of_wtcProperty isSafeToCopy rfl h,
      exec_of_wtcProperty isValid rfl h⟩
  · simp only [List.forall_mem_cons]
    exact ⟨exec_of_wtc_none rfl h, exec_of_wtc_none rfl h, exec_of_wtc_none rfl h,
      exec_of_wtc_none rfl h, exec_of_wtc_none rfl h, List.forall_mem_nil _⟩

end Sys2Proof.Machine
end

section
/-! What decode reads (R161, R164): the fields of a frame as bounded reads, and a chunk decoded as one
read of its frame. -/

namespace Sys2Proof.Machine

/-- A bounded read of two parts is a read of each, one after the other. -/
theorem memRead_append_iff {x : Bytes} {m : Nat} (hx : x.length = m) (buf y : Bytes) (addr n : Nat) :
    memRead buf addr (m + n) = some (x ++ y) ↔
      memRead buf addr m = some x ∧ memRead buf (addr + m) n = some y := by
  simp only [memRead_eq_some_iff, List.take_add, List.drop_drop]
  constructor
  · rintro ⟨len, bytes⟩
    obtain ⟨hx, hy⟩ := List.append_inj bytes (by simp only [List.length_take, List.length_drop]; omega)
    exact ⟨⟨by omega, hx⟩, by omega, hy⟩
  · rintro ⟨⟨-, rfl⟩, len, rfl⟩
    exact ⟨by omega, rfl⟩

theorem wordOf_eq_some_iff (bs : Bytes) (v : Word) : wordOf bs = some v ↔ bs = be32 v := by
  constructor
  · intro h
    unfold wordOf at h
    split at h
    · obtain rfl := Option.some.inj h
      exact (be32_fromBe32 ..).symm
    · cases h
  · rintro rfl
    exact wordOf_be32 v

theorem typeOf_eq_some_iff (bs : Bytes) (t : TypeCode) : typeOf bs = some t ↔ bs = typeBytes t := by
  constructor
  · intro h
    unfold typeOf at h
    split at h
    · obtain rfl := Option.some.inj h
      rfl
    · cases h
  · rintro rfl
    rfl

/-- R164 steps 1 and 2: the length field is one read. -/
theorem readLength_eq_some_iff (buf : Bytes) (off : Nat) (len : Word) :
    readLength buf off = some len ↔ memRead buf off 4 = some (be32 len) := by
  simp only [readLength, Option.bind_eq_some_iff, wordOf_eq_some_iff, exists_eq_right]

theorem readLength_eq_none {buf : Bytes} {off : Nat} (h : buf.length < off + 4) :
    readLength buf off = none := by
  rw [readLength, (memRead_eq_none_iff ..).2 h, Option.bind_none]

/-- R164 steps 3 to 6: the body of a frame is one read behind the length field. -/
theorem readBody_eq_some_iff (buf : Bytes) (off len : Nat) (t : TypeCode) (d : Bytes) (c : Word) :
    readBody buf off len = some (t, d, c) ↔
      d.length = len ∧ memRead buf (off + 4) (4 + (len + 4)) = some (typeBytes t ++ (d ++ be32 c)) := by
  simp only [readBody, Option.bind_eq_some_iff, Option.map_eq_some_iff, typeOf_eq_some_iff,
    wordOf_eq_some_iff, Prod.mk.injEq, typeLen]
  constructor
  · rintro ⟨_, -, t', ⟨_, ht, rfl⟩, d', hd, c', ⟨_, hc, rfl⟩, rfl, rfl, rfl⟩
    have hl := memRead_length _ _ _ _ hd
    rw [memRead_append_iff (typeBytes_length _), memRead_append_iff hl]
    exact ⟨hl, ht, hd, hc⟩
  · rintro ⟨hl, h⟩
    rw [memRead_append_iff (typeBytes_length _), memRead_append_iff hl] at h
    obtain ⟨ht, hd, hc⟩ := h
    have inside := ((memRead_eq_some_iff ..).1 hc).1
    exact ⟨_, (memRead_eq_some_iff ..).2 ⟨by simp only [frameOverhead]; omega, rfl⟩,
      t, ⟨_, ht, rfl⟩, d, hd, c, ⟨_, hc, rfl⟩, rfl, rfl, rfl⟩

theorem readBody_eq_none {buf : Bytes} {off len : Nat} (h : buf.length < off + (12 + len)) :
    readBody buf off len = none := by
  rw [readBody, frameOverhead, (memRead_eq_none_iff ..).2 h, Option.bind_none]

/-- R164 step 1 fails. -/
theorem decodeAt_of_readLength_none {buf : Bytes} {off : Nat} (h : readLength buf off = none) :
    decodeAt buf off = .error .truncated := by
  rw [decodeAt, h]

/-- R164 step 2 fails. -/
theorem decodeAt_of_length_gt {buf : Bytes} {off : Nat} {len : Word} (h : readLength buf off = some len)
    (big : 0x7FFFFFFF < len.toNat) : decodeAt buf off = .error .invalidLength := by
  simp only [decodeAt, h, maxLen, big, if_true]

/-- R164 step 3 fails. -/
theorem decodeAt_of_readBody_none {buf : Bytes} {off : Nat} {len : Word}
    (h : readLength buf off = some len) (small : len.toNat ≤ 0x7FFFFFFF)
    (hb : readBody buf off len.toNat = none) : decodeAt buf off = .error .truncated := by
  simp only [decodeAt, h, maxLen, Nat.not_lt.2 small, if_false, hb]

/-- R161: a chunk's frame has 12 bytes more than its payload. -/
theorem frame_length {c : ChunkRec} (h : c.data.length = c.length.toNat) :
    (frame c).length = 12 + c.length.toNat := by
  simp only [frame, List.length_append, be32_length, typeBytes_length]
  omega

/-- Reading the length field and the body is one read of the frame. -/
theorem readLength_readBody_iff (buf : Bytes) (off : Nat) (c : ChunkRec) :
    (readLength buf off = some c.length ∧
      readBody buf off c.length.toNat = some (c.type, c.data, c.crc)) ↔
    c.data.length = c.length.toNat ∧ memRead buf off (12 + c.length.toNat) = some (frame c) := by
  have size : 12 + c.length.toNat = 4 + (4 + (c.length.toNat + 4)) := by omega
  have fields : frame c = be32 c.length ++ (typeBytes c.type ++ (c.data ++ be32 c.crc)) := by
    simp only [frame, List.append_assoc]
  rw [size, fields, memRead_append_iff (be32_length _), readLength_eq_some_iff, readBody_eq_some_iff,
    and_left_comm]

/-- R164 steps 4 to 7, on a frame that is all there: the letters, then the checksum. -/
theorem decodeAt_of_memRead_frame {buf : Bytes} {off : Nat} {c : ChunkRec}
    (hd : c.data.length = c.length.toNat) (small : c.length.toNat ≤ 0x7FFFFFFF)
    (h : memRead buf off (12 + c.length.toNat) = some (frame c)) :
    decodeAt buf off =
      if ¬ TypeOk c.type then .error .invalidEncoding
      else if crc32 (typeBytes c.type ++ c.data) ≠ c.crc then .error .crcMismatch
      else .ok (c, 12 + c.length.toNat) := by
  obtain ⟨length, body⟩ := (readLength_readBody_iff ..).2 ⟨hd, h⟩
  simp only [decodeAt, length, body, maxLen, Nat.not_lt.2 small, if_false, ← allLetters_iff,
    frameOverhead, Bool.not_eq_true', Bool.not_eq_true]

/-- R164 steps 1 to 3: either they report an error of the length, or a frame is all there. -/
theorem decodeAt_lengthError_or_frame (buf : Bytes) (off : Nat) :
    (decodeAt buf off = .error .truncated ∨ decodeAt buf off = .error .invalidLength) ∨
    ∃ c : ChunkRec, c.data.length = c.length.toNat ∧ c.length.toNat ≤ 0x7FFFFFFF ∧
      memRead buf off (12 + c.length.toNat) = some (frame c) := by
  cases length : readLength buf off with
  | none => exact .inl (.inl (decodeAt_of_readLength_none length))
  | some len =>
    obtain big | small := Nat.lt_or_ge 0x7FFFFFFF len.toNat
    · exact .inl (.inr (decodeAt_of_length_gt length big))
    · cases body : readBody buf off len.toNat with
      | none => exact .inl (.inl (decodeAt_of_readBody_none length small body))
      | some fields =>
        obtain ⟨t, d, crc⟩ := fields
        obtain ⟨hd, h⟩ := (readLength_readBody_iff buf off ⟨len, t, d, crc⟩).1 ⟨length, body⟩
        exact .inr ⟨_, hd, small, h⟩

/-- Decode accepts a chunk exactly when the chunk is sound and its frame stands at the offset. -/
theorem decodeAt_eq_ok_iff (buf : Bytes) (off : Nat) (c : ChunkRec) (used : Nat) :
    decodeAt buf off = .ok (c, used) ↔
      ChunkOk c ∧ used = 12 + c.length.toNat ∧ memRead buf off used = some (frame c) := by
  constructor
  · intro ok
    obtain (err | err) | ⟨c', hd, small, h⟩ := decodeAt_lengthError_or_frame buf off
    · cases ok.symm.trans err
    · cases ok.symm.trans err
    · rw [decodeAt_of_memRead_frame hd small h] at ok
      split_ifs at ok with letters checksum
      cases ok
      exact ⟨⟨hd.symm, small, letters, (not_not.1 checksum).symm⟩, rfl, h⟩
  · rintro ⟨⟨lengthIsData, small, letters, checksum⟩, rfl, h⟩
    rw [decodeAt_of_memRead_frame lengthIsData.symm small h, if_neg (not_not.2 letters),
      if_neg (not_not.2 checksum.symm)]

/-- The error kinds of decode (R164): each is that of one of its steps. -/
theorem mem_of_decodeAt_eq_error {buf : Bytes} {off : Nat} {k : ErrorKind}
    (h : decodeAt buf off = .error k) :
    k ∈ [ErrorKind.truncated, .invalidLength, .invalidEncoding, .crcMismatch] := by
  obtain (err | err) | ⟨c, hd, small, read⟩ := decodeAt_lengthError_or_frame buf off
  · cases h.symm.trans err
    decide
  · cases h.symm.trans err
    decide
  · rw [decodeAt_of_memRead_frame hd small read] at h
    split_ifs at h <;> cases h <;> decide

/-- A frame is read where it stands. -/
theorem memRead_frame {c : ChunkRec} (h : c.data.length = c.length.toNat) (pre z : Bytes) :
    memRead (pre ++ frame c ++ z) pre.length (12 + c.length.toNat) = some (frame c) := by
  rw [List.append_assoc]
  exact memRead_append pre _ z _ _ rfl (frame_length h)

/-- A length field is read where it stands. -/
theorem readLength_be32 (pre body : Bytes) (len : Word) :
    readLength (pre ++ (be32 len ++ body)) pre.length = some len := by
  rw [readLength_eq_some_iff]
  exact memRead_append pre _ body _ _ rfl (be32_length len)

/-- R168 (a). -/
theorem decodeAt_frame {c : ChunkRec} (h : ChunkOk c) (pre z : Bytes) :
    decodeAt (pre ++ frame c ++ z) pre.length = .ok (c, 12 + c.length.toNat) :=
  (decodeAt_eq_ok_iff ..).2 ⟨h, rfl, memRead_frame h.lengthIsData.symm pre z⟩

/-- Settles O36: decode's success is a bounded read of the frame of a sound chunk, in both directions. -/
theorem decodeIsTheInverseOfFrame : Obligations.DecodeIsTheInverseOfFrame := by
  refine ⟨fun c pre z h => decodeAt_frame h pre z, fun buf off c used ok => ?_⟩
  obtain ⟨sound, size, read⟩ := (decodeAt_eq_ok_iff ..).1 ok
  obtain ⟨inside, bytes⟩ := (memRead_eq_some_iff ..).1 read
  exact ⟨sound, size, inside, bytes.symm⟩

/-- Settles O35: each step's equation of decode, on the bytes the statement puts behind `pre`. -/
theorem decodeReportsTheFirstFailingStep : Obligations.DecodeReportsTheFirstFailingStep := by
  refine fun pre rest => ⟨fun short => ?_, ?_⟩
  · exact decodeAt_of_readLength_none (readLength_eq_none (by rw [List.length_append]; omega))
  rintro len body rfl
  have length := readLength_be32 pre body len
  refine ⟨decodeAt_of_length_gt length, fun small short => ?_, fun small t d z c hbody hd => ?_⟩
  · exact decodeAt_of_readBody_none length small
      (readBody_eq_none (by rw [List.length_append]; omega))
  · have whole : pre ++ (be32 len ++ body) = pre ++ frame ⟨len, t, d, c⟩ ++ z := by
      simp only [hbody, frame, typeBytes, List.append_assoc]
    rw [whole, decodeAt_of_memRead_frame (c := ⟨len, t, d, c⟩) hd small (memRead_frame hd pre z)]
    exact ⟨fun other => if_pos other,
      fun letters differs => (if_neg (not_not.2 letters)).trans (if_pos differs),
      fun letters same => (if_neg (not_not.2 letters)).trans (if_neg (not_not.2 same))⟩

end Sys2Proof.Machine
end

section
/-! The commands of the framer as whole next states: CH.ENCODE and CH.DECODE (R163, R165), and the
commands that start from WCH (R167, R171 to R174). -/

namespace Sys2Proof.Machine

/-- A command that starts from WCH is REFUSED with NO_OPERAND while WCH is not valid (R23, R232). -/
theorem exec_of_wch_none {i : Instr} {s : State} {f : ChunkRec → Block}
    (hi : Block.exec s.caps i s.toBlock = needWch s.toBlock f) (h : s.wch = none) :
    exec i s = .next { s with status := 0x27 } :=
  exec_eq_of_block_eq (hi.trans ((needWch_eq s.toBlock f).1 h))

/-- A command that ends by putting bytes in OBUF: OK when they fit, CAPACITY when not (R233). -/
theorem exec_of_emit {i : Instr} {s : State} {n : Nat} {bs : Bytes}
    (hi : Block.exec s.caps i s.toBlock = emit s.caps n bs s.toBlock) :
    (FitsBuf s.caps n → exec i s = .next { s with obuf := bs, status := 0x00 }) ∧
    (¬ FitsBuf s.caps n → exec i s = .next { s with status := 0x47 }) := by
  obtain ⟨fit, noFit⟩ := emit_eq s.caps n bs s.toBlock
  exact ⟨fun h => exec_eq_of_block_eq (hi.trans (fit h)),
    fun h => exec_eq_of_block_eq (hi.trans (noFit h))⟩

/-- A command that ends by putting bytes in OBUF has them there when it ends OK. -/
theorem obuf_of_emit {i : Instr} {s t : State} {n : Nat} {bs : Bytes}
    (hi : Block.exec s.caps i s.toBlock = emit s.caps n bs s.toBlock)
    (ht : exec i s = .next t) (ok : t.status = 0x00) : t.obuf = bs := by
  obtain ⟨fit, noFit⟩ := exec_of_emit hi
  by_cases h : FitsBuf s.caps n
  · cases ht.symm.trans (fit h)
    rfl
  · cases ht.symm.trans (noFit h)
    cases ok

/-- R167 with WCH valid, the capacity not yet tested. -/
theorem blockExec_chSerialize {b : Block} {c : ChunkRec} (h : b.wch = some c) (k : Caps) :
    Block.exec k .chSerialize b = emit k (12 + c.length.toNat) (frame c) b :=
  (needWch_eq b _).2 c h

/-- R171. -/
theorem exec_chLength {s : State} {c : ChunkRec} (h : s.wch = some c) :
    exec .chLength s = .next { s with res := c.length, status := 0x00 } :=
  exec_eq_of_block_eq ((needWch_eq s.toBlock _).2 c h)

/-- R174. -/
theorem exec_chType {s : State} {c : ChunkRec} (h : s.wch = some c) :
    exec .chType s = .next { s with wtc := some c.type, res := pack4 c.type, status := 0x00 } :=
  exec_eq_of_block_eq ((needWch_eq s.toBlock _).2 c h)

/-- R172 with WCH valid, the capacity not yet tested. -/
theorem blockExec_chData {b : Block} {c : ChunkRec} (h : b.wch = some c) (k : Caps) :
    Block.exec k .chData b = emit k c.length.toNat c.data b :=
  (needWch_eq b _).2 c h

/-- R173. -/
theorem exec_chCrc {s : State} {c : ChunkRec} (h : s.wch = some c) :
    exec .chCrc s = .next { s with res := c.crc, status := 0x00 } :=
  exec_eq_of_block_eq ((needWch_eq s.toBlock _).2 c h)

/-- R163 with WTC valid, the length not yet tested. -/
theorem cmdChEncode_of_wtc {b : Block} {t : TypeCode} (h : b.wtc = some t) :
    cmdChEncode b =
      if 0x7FFFFFFF < b.ibuf.length then { b with status := 0x57 }
      else { b with wch := some (encodeChunk t b.ibuf), status := 0x00 } := by
  rw [cmdChEncode, (needWtc_eq b _).2 t h, refuse_eq]
  rfl

/-- R163: a payload within MAX_LEN. -/
theorem exec_chEncode {s : State} {t : TypeCode} (h : s.wtc = some t)
    (small : s.ibuf.length ≤ 0x7FFFFFFF) :
    exec .chEncode s = .next { s with wch := some (encodeChunk t s.ibuf), status := 0x00 } :=
  exec_eq_of_block_eq ((cmdChEncode_of_wtc h).trans (if_neg (Nat.not_lt.2 small)))

/-- R163: a payload above MAX_LEN. -/
theorem exec_chEncode_of_length_gt {s : State} {t : TypeCode} (h : s.wtc = some t)
    (big : 0x7FFFFFFF < s.ibuf.length) : exec .chEncode s = .next { s with status := 0x57 } :=
  exec_eq_of_block_eq ((cmdChEncode_of_wtc h).trans (if_pos big))

/-- A payload within MAX_LEN has its size in the length field. -/
theorem encodeChunk_length {p : Bytes} (t : TypeCode) (small : p.length ≤ 0x7FFFFFFF) :
    (encodeChunk t p).length.toNat = p.length := by
  rw [encodeChunk, BitVec.toNat_ofNat]
  omega

/-- R34: the chunk CH.ENCODE builds is sound. -/
theorem chunkOk_encodeChunk {t : TypeCode} {p : Bytes} (ht : TypeOk t)
    (small : p.length ≤ 0x7FFFFFFF) : ChunkOk (encodeChunk t p) where
  lengthIsData := encodeChunk_length t small
  lengthInRange := (encodeChunk_length t small).le.trans small
  typeLetters := ht
  crcIsChecksum := rfl

/-- R165: an offset past ILEN. -/
theorem exec_chDecode_of_length_lt {s : State} {off : Word} (h : s.ibuf.length < off.toNat) :
    exec (.chDecode off) s = .next { s with status := 0x02 } :=
  exec_eq_of_block_eq (if_pos h)

/-- R165: an error of decode. -/
theorem exec_chDecode_of_error {s : State} {off : Word} {k : ErrorKind}
    (h : off.toNat ≤ s.ibuf.length) (err : decodeAt s.ibuf off.toNat = .error k) :
    exec (.chDecode off) s = .next { s with status := errorByte k } := by
  refine exec_eq_of_block_eq (?_ : cmdChDecode off s.toBlock = _)
  rw [cmdChDecode, Block.ilen_eq, if_neg (Nat.not_lt.2 h), inputBytes, err]
  exact raise_eq k s.toBlock

/-- R165: a chunk that decode accepts. -/
theorem exec_chDecode_of_ok {s : State} {off : Word} {c : ChunkRec} {used : Nat}
    (h : off.toNat ≤ s.ibuf.length) (ok : decodeAt s.ibuf off.toNat = .ok (c, used)) :
    exec (.chDecode off) s =
      .next { s with wch := some c, res := BitVec.ofNat 32 used, status := 0x00 } := by
  refine exec_eq_of_block_eq (?_ : cmdChDecode off s.toBlock = _)
  rw [cmdChDecode, Block.ilen_eq, if_neg (Nat.not_lt.2 h), inputBytes, ok]
  rfl

/-- Settles O34: the chunk is `encodeChunk` of WTC and IBUF. -/
theorem encodeBuildsTheChunk : Obligations.EncodeBuildsTheChunk := by
  refine ⟨codedAs_of_mem (by simp [opcodeMap]), fun s => ⟨fun t ht small => ?_,
    fun t ht big => exec_chEncode_of_length_gt ht big, exec_of_wtc_none rfl⟩⟩
  exact ⟨encodeChunk t s.ibuf, exec_chEncode ht small, encodeChunk_length t small, rfl, rfl, rfl,
    fun letters => chunkOk_encodeChunk letters small⟩

/-- Settles O37: the command reports what decode answers at the offset, and a sound frame there is what
decode accepts; 12 + length fits RES (R166). -/
theorem decodeCommandLoadsTheChunk : Obligations.DecodeCommandLoadsTheChunk := by
  refine ⟨decode_cmdWord_of_mem (p := (0x21, .chDecode)) (by simp [opcodeMap]), fun s off =>
    ⟨exec_chDecode_of_length_lt, fun inside k err =>
      ⟨mem_of_decodeAt_eq_error err, exec_chDecode_of_error inside err⟩, ?_⟩⟩
  intro pre z c hbuf hpre hc
  have inside : off.toNat ≤ s.ibuf.length := by
    simp only [hbuf, List.length_append, hpre]
    omega
  have ok : decodeAt s.ibuf off.toNat = .ok (c, 12 + c.length.toNat) := by
    rw [hbuf, ← hpre]
    exact decodeAt_frame hc pre z
  refine ⟨BitVec.ofNat 32 (12 + c.length.toNat), ?_, exec_chDecode_of_ok inside ok⟩
  have small := hc.lengthInRange
  rw [BitVec.toNat_ofNat]
  omega

/-- Settles O41: the bytes the command emits are the frame, of 12 + length bytes for a sound chunk. -/
theorem serializeWritesTheFrame : Obligations.SerializeWritesTheFrame := by
  refine ⟨codedAs_of_mem (by simp [opcodeMap]), fun s => ⟨fun c hc => ?_, fun c hc => ?_,
    fun c t hc sound ht ok => ?_, exec_of_wch_none rfl⟩⟩
  · exact (exec_of_emit (blockExec_chSerialize hc s.caps)).1
  · exact (exec_of_emit (blockExec_chSerialize hc s.caps)).2
  · rw [Block.olen_eq, obuf_of_emit (blockExec_chSerialize hc s.caps) ht ok]
    exact frame_length sound.lengthIsData.symm

/-- Settles O42: each accessor's next state; the packed type holds the type's bytes. -/
theorem accessorsReadTheChunk : Obligations.AccessorsReadTheChunk := by
  refine ⟨codedAs_of_mem (by simp [opcodeMap]), codedAs_of_mem (by simp [opcodeMap]),
    codedAs_of_mem (by simp [opcodeMap]), codedAs_of_mem (by simp [opcodeMap]),
    fun s => ⟨fun c hc => ?_, fun hc => ?_⟩⟩
  · obtain ⟨fit, noFit⟩ := exec_of_emit (blockExec_chData hc s.caps)
    exact ⟨exec_chLength hc, exec_chCrc hc, ⟨pack4 c.type, exec_chType hc, be32_fromBe32 ..⟩,
      fit, noFit, fun sound => ⟨sound.lengthIsData.symm, sound.lengthInRange⟩⟩
  · simp only [List.forall_mem_cons]
    exact ⟨exec_of_wch_none rfl hc, exec_of_wch_none rfl hc, exec_of_wch_none rfl hc,
      exec_of_wch_none rfl hc, List.forall_mem_nil _⟩

end Sys2Proof.Machine
end

section
/-! UTF-8 (R169, R170): the machine's test reads a first byte, then the bytes its row asks for; a
well-formed sequence is a first byte with bytes that match its row. -/

namespace Sys2Proof.Machine

/-- Bytes that match the ranges a first byte asks for, one by one. -/
abbrev MatchRanges : List ByteRange → Bytes → Prop := List.Forall₂ fun r b => inRange r b = true

/-- The rows' first-byte ranges rise, so no byte is the first byte of two rows (R170). -/
theorem utf8Rows_firstBytes_rise : utf8Rows.Pairwise fun row row' => row.1.2 < row'.1.1 := by decide

theorem inRange_iff (r : ByteRange) (b : Byte) :
    inRange r b = true ↔ r.1 ≤ b.toNat ∧ b.toNat ≤ r.2 := by
  simp only [inRange, Bool.and_eq_true, decide_eq_true_eq]

/-- The search for a row stops at the one row whose first-byte range holds the byte. -/
theorem utf8Lead_eq_some_iff (b : Byte) (owed : List ByteRange) :
    utf8Lead b = some owed ↔ ∃ row ∈ utf8Rows, inRange row.1 b = true ∧ row.2 = owed := by
  simp only [utf8Lead, Option.map_eq_some_iff]
  constructor
  · rintro ⟨row, found, rfl⟩
    have hb := List.find?_some found
    exact ⟨row, List.mem_of_find?_eq_some found, hb, rfl⟩
  · rintro ⟨row, hrow, hb, rfl⟩
    refine ⟨row, ?_, rfl⟩
    obtain ⟨before, after, rows⟩ := List.append_of_mem hrow
    have rise := utf8Rows_firstBytes_rise
    rw [rows, List.pairwise_append] at rise
    obtain ⟨-, -, below⟩ := rise
    refine List.find?_eq_some_iff_append.2 ⟨hb, before, after, rows, fun row' hmem => ?_⟩
    have lt : row'.1.2 < row.1.1 := below row' hmem row List.mem_cons_self
    have ge := (inRange_iff row.1 b).1 hb
    rw [Bool.not_eq_true', ← Bool.not_eq_true, inRange_iff]
    omega

/-- A well-formed sequence, by the machine's rows: a first byte, then bytes that match its row. -/
theorem utf8Seq_cons_iff_row (a : Byte) (q : Bytes) :
    Utf8Seq (a :: q) ↔ ∃ row ∈ utf8Rows, inRange row.1 a = true ∧ MatchRanges row.2 q := by
  simp only [utf8Rows, List.exists_mem_cons_iff, List.not_mem_nil, false_and, exists_false, or_false,
    MatchRanges, inRange_iff]
  match q with
  | [] => simp [Utf8Seq]
  | [b] => simp [Utf8Seq]; omega
  | [b, c] => simp [Utf8Seq]; omega
  | [b, c, d] => simp [Utf8Seq]; omega
  | b :: c :: d :: e :: q => simp [Utf8Seq]

theorem utf8Seq_cons_iff (a : Byte) (q : Bytes) :
    Utf8Seq (a :: q) ↔ ∃ owed, utf8Lead a = some owed ∧ MatchRanges owed q := by
  simp only [utf8Seq_cons_iff_row, utf8Lead_eq_some_iff]
  constructor
  · rintro ⟨row, hrow, ha, hq⟩
    exact ⟨row.2, ⟨row, hrow, ha, rfl⟩, hq⟩
  · rintro ⟨_, ⟨row, hrow, ha, rfl⟩, hq⟩
    exact ⟨row, hrow, ha, hq⟩

/-- The bytes still owed by the sequence begun, then a text: what `utf8From` accepts. -/
def OwedThenText (owed : List ByteRange) (s : Bytes) : Prop :=
  ∃ q rest, s = q ++ rest ∧ MatchRanges owed q ∧ Utf8Text rest

theorem owedThenText_nothing_owed (s : Bytes) : OwedThenText [] s ↔ Utf8Text s := by
  constructor
  · rintro ⟨_, rest, rfl, _ | _, text⟩
    exact text
  · exact fun text => ⟨[], s, rfl, .nil, text⟩

theorem owedThenText_at_end (owed : List ByteRange) : OwedThenText owed [] ↔ owed = [] := by
  constructor
  · rintro ⟨q, rest, hs, hq, -⟩
    obtain ⟨rfl, -⟩ := List.nil_eq_append_iff.1 hs
    exact List.forall₂_nil_right_iff.1 hq
  · rintro rfl
    exact (owedThenText_nothing_owed []).2 ⟨[], rfl, List.forall_mem_nil _⟩

theorem owedThenText_cons (r : ByteRange) (owed : List ByteRange) (a : Byte) (s : Bytes) :
    OwedThenText (r :: owed) (a :: s) ↔ inRange r a = true ∧ OwedThenText owed s := by
  constructor
  · rintro ⟨_, rest, hs, _ | ⟨ha, hq⟩, text⟩
    obtain ⟨rfl, rfl⟩ := List.cons.inj hs
    exact ⟨ha, _, rest, rfl, hq, text⟩
  · rintro ⟨ha, q, rest, rfl, hq, text⟩
    exact ⟨a :: q, rest, rfl, .cons ha hq, text⟩

/-- A text that is not empty starts with a first byte; its row's bytes and a text follow. -/
theorem utf8Text_cons_iff (a : Byte) (s : Bytes) :
    Utf8Text (a :: s) ↔ ∃ owed, utf8Lead a = some owed ∧ OwedThenText owed s := by
  constructor
  · rintro ⟨parts, hs, wf⟩
    obtain _ | ⟨_ | ⟨_, q⟩, parts⟩ := parts
    · cases hs
    · exact (wf [] List.mem_cons_self).elim
    · obtain ⟨rfl, rfl⟩ := List.cons.inj hs
      obtain ⟨seq, wf⟩ := List.forall_mem_cons.1 wf
      obtain ⟨owed, lead, hq⟩ := (utf8Seq_cons_iff a q).1 seq
      exact ⟨owed, lead, q, parts.flatten, rfl, hq, parts, rfl, wf⟩
  · rintro ⟨owed, lead, q, _, rfl, hq, parts, rfl, wf⟩
    have seq := (utf8Seq_cons_iff a q).2 ⟨owed, lead, hq⟩
    exact ⟨(a :: q) :: parts, rfl, List.forall_mem_cons.2 ⟨seq, wf⟩⟩

/-- With nothing owed, the test goes on exactly after a byte that can be a first byte. -/
theorem utf8From_nothing_owed (a : Byte) (s : Bytes) :
    utf8From [] (a :: s) = true ↔ ∃ owed, utf8Lead a = some owed ∧ utf8From owed s = true := by
  rw [utf8From]
  cases utf8Lead a <;> simp

/-- The machine's test, at any point of a sequence. -/
theorem utf8From_iff (owed : List ByteRange) (s : Bytes) :
    utf8From owed s = true ↔ OwedThenText owed s := by
  induction s generalizing owed with
  | nil => rw [utf8From, List.isEmpty_iff, owedThenText_at_end]
  | cons a s ih =>
    cases owed with
    | nil => simp only [utf8From_nothing_owed, ih, owedThenText_nothing_owed, utf8Text_cons_iff]
    | cons r owed => rw [utf8From, Bool.and_eq_true, ih, owedThenText_cons]

/-- Settles O43: the machine's test from the start, where nothing is owed. -/
theorem utf8TestAcceptsExactlyWellFormedText : Obligations.Utf8TestAcceptsExactlyWellFormedText :=
  fun s => (utf8From_iff [] s).trans (owedThenText_nothing_owed s)

/-- R169 with WCH valid and its payload a text, the capacity not yet tested. -/
theorem blockExec_chAstext {b : Block} {c : ChunkRec} (h : b.wch = some c) (text : Utf8Text c.data)
    (k : Caps) : Block.exec k .chAstext b = emit k c.length.toNat c.data b :=
  ((needWch_eq b _).2 c h).trans (if_pos ((utf8TestAcceptsExactlyWellFormedText c.data).2 text))

/-- R169 with WCH valid and its payload no text. -/
theorem exec_chAstext_of_not_text {s : State} {c : ChunkRec} (h : s.wch = some c)
    (bad : ¬ Utf8Text c.data) : exec .chAstext s = .next { s with status := 0x04 } :=
  exec_eq_of_block_eq <| ((needWch_eq s.toBlock _).2 c h).trans <|
    (if_neg (mt (utf8TestAcceptsExactlyWellFormedText c.data).1 bad)).trans (raise_eq ..)

/-- Settles O44: a payload that is a text is emitted, any other is an error whatever the capacity. -/
theorem asTextNeedsValidUtf8 : Obligations.AsTextNeedsValidUtf8 := by
  refine ⟨codedAs_of_mem (by simp [opcodeMap]), fun s => ⟨fun c hc text => ?_,
    fun c hc bad => exec_chAstext_of_not_text hc bad, fun c hc text => ?_,
    fun c t hc sound ht ok => ?_, exec_of_wch_none rfl⟩⟩
  · exact (exec_of_emit (blockExec_chAstext hc text s.caps)).1
  · exact (exec_of_emit (blockExec_chAstext hc text s.caps)).2
  · by_cases text : Utf8Text c.data
    · rw [Block.olen_eq, obuf_of_emit (blockExec_chAstext hc text s.caps) ht ok]
      exact sound.lengthIsData.symm
    · cases ht.symm.trans (exec_chAstext_of_not_text hc text)
      cases ok

end Sys2Proof.Machine
end

section
/-! The parse loop (R192, R193) without its cursor: bytes before the cursor do not matter, a sound frame
is taken off the front, and what the loop accepts is frames. -/

namespace Sys2Proof.Machine

/-- A bounded read past the bytes in front is a read of the rest. -/
theorem memRead_append_left (pre r : Bytes) (addr n : Nat) :
    memRead (pre ++ r) (pre.length + addr) n = memRead r addr n := by
  simp only [memRead, List.length_append, Nat.add_assoc, Nat.add_le_add_iff_left,
    List.drop_length_add_append]

/-- A bounded read from the start finds the bytes a space begins with. -/
theorem memRead_zero_eq_some_iff {d : Bytes} {n : Nat} (h : d.length = n) (space : Bytes) :
    memRead space 0 n = some d ↔ ∃ r, space = d ++ r := by
  constructor
  · intro read
    obtain ⟨-, front⟩ := (memRead_eq_some_iff ..).1 read
    exact ⟨space.drop n, (front ▸ List.take_append_drop n space).symm⟩
  · rintro ⟨r, rfl⟩
    exact memRead_append [] d r 0 n rfl h

/-- Decode reads nothing before its offset. -/
theorem decodeAt_append_left (pre r : Bytes) (off : Nat) :
    decodeAt (pre ++ r) (pre.length + off) = decodeAt r off := by
  simp only [decodeAt, readLength, readBody, Nat.add_assoc, memRead_append_left]

theorem parseFrom_append_left (pre r : Bytes) (n cur : Nat) :
    parseFrom (pre ++ r) n (pre.length + cur) = parseFrom r n cur := by
  induction n generalizing cur with
  | zero => simp only [parseFrom, List.length_append, Nat.add_lt_add_iff_left]
  | succ n ih =>
    simp only [parseFrom, List.length_append, Nat.add_lt_add_iff_left, decodeAt_append_left,
      Nat.add_assoc, ih]

/-- At the end of the buffer the loop ends, whatever rounds are left. -/
theorem parseFrom_of_length_le {buf : Bytes} {cur : Nat} (n : Nat) (h : buf.length ≤ cur) :
    parseFrom buf n cur = .ok [] := by
  cases n <;> exact if_neg (Nat.not_lt.2 h)

/-- R194: a bad frame ends the loop with its error. -/
theorem parseFrom_succ_of_error {buf : Bytes} {cur : Nat} {k : ErrorKind} (n : Nat)
    (h : cur < buf.length) (err : decodeAt buf cur = .error k) :
    parseFrom buf (n + 1) cur = .error k := by
  simp only [parseFrom, h, if_true, err]

/-- A good frame is the first chunk, and the loop goes on behind it. -/
theorem parseFrom_succ_of_ok {buf : Bytes} {cur used : Nat} {c : ChunkRec} (n : Nat)
    (h : cur < buf.length) (ok : decodeAt buf cur = .ok (c, used)) :
    parseFrom buf (n + 1) cur = (parseFrom buf n (cur + used)).map (c :: ·) := by
  simp only [parseFrom, h, if_true, ok]
  cases parseFrom buf n (cur + used) <;> rfl

theorem parseFrom_frame_append {c : ChunkRec} (h : ChunkOk c) (r : Bytes) (n : Nat) :
    parseFrom (frame c ++ r) (n + 1) 0 = (parseFrom r n 0).map (c :: ·) := by
  have size := frame_length h.lengthIsData.symm
  have rest := parseFrom_append_left (frame c) r n 0
  rw [size] at rest
  have inside : 0 < (frame c ++ r).length := by
    rw [List.length_append]
    omega
  rw [parseFrom_succ_of_ok n inside (decodeAt_frame h [] r), Nat.zero_add]
  exact congrArg _ rest

/-- One round for each sound frame at the front. -/
theorem parseFrom_framesOf_append {cs : List ChunkRec} (h : ∀ c ∈ cs, ChunkOk c) (r : Bytes)
    (n : Nat) : parseFrom (framesOf cs ++ r) (n + cs.length) 0 = (parseFrom r n 0).map (cs ++ ·) := by
  induction cs with
  | nil =>
    rw [framesOf, List.nil_append, List.length_nil, Nat.add_zero]
    cases parseFrom r n 0 <;> rfl
  | cons c cs ih =>
    obtain ⟨hc, hcs⟩ := List.forall_mem_cons.1 h
    rw [framesOf, List.append_assoc, List.length_cons, ← Nat.add_assoc, parseFrom_frame_append hc,
      ih hcs]
    cases parseFrom r n 0 <;> rfl

/-- What the loop accepts is the frames of the sound chunks it answers. -/
theorem eq_framesOf_of_parseFrom_eq_ok {r : Bytes} {n : Nat} {cs : List ChunkRec}
    (ok : parseFrom r n 0 = .ok cs) : r = framesOf cs ∧ ∀ c ∈ cs, ChunkOk c := by
  induction n generalizing r cs with
  | zero =>
    simp only [parseFrom] at ok
    split_ifs at ok with inside
    cases ok
    exact ⟨List.eq_nil_of_length_eq_zero (by omega), List.forall_mem_nil _⟩
  | succ n ih =>
    obtain done | inside := Nat.eq_zero_or_pos r.length
    · cases ok.symm.trans (parseFrom_of_length_le (n + 1) done.le)
      exact ⟨List.eq_nil_of_length_eq_zero done, List.forall_mem_nil _⟩
    · cases decoded : decodeAt r 0 with
      | error k => cases ok.symm.trans (parseFrom_succ_of_error n inside decoded)
      | ok p =>
        obtain ⟨c, used⟩ := p
        obtain ⟨sound, rfl, read⟩ := (decodeAt_eq_ok_iff ..).1 decoded
        obtain ⟨r', rfl⟩ :=
          (memRead_zero_eq_some_iff (frame_length sound.lengthIsData.symm) r).1 read
        rw [parseFrom_frame_append sound] at ok
        cases rest : parseFrom r' n 0 with
        | error k => rw [rest] at ok; cases ok
        | ok cs' =>
          rw [rest] at ok
          cases ok
          obtain ⟨rfl, sound'⟩ := ih rest
          exact ⟨rfl, List.forall_mem_cons.2 ⟨sound, sound'⟩⟩

end Sys2Proof.Machine
end

section
/-! Parse and the wire form (R191, R192, R196): parse accepts exactly the wire forms of sound chunks. -/

namespace Sys2Proof.Machine

/-- R196. -/
theorem wire_length {cs : List ChunkRec} (h : ∀ c ∈ cs, ChunkOk c) :
    (wire cs).length = serializedLength cs := by
  rw [wire, List.length_append, framesOf_eq, List.length_flatten, List.map_map, serializedLength]
  exact congrArg (8 + List.sum ·)
    (List.map_congr_left fun c hc => frame_length (h c hc).lengthIsData.symm)

/-- A frame is never empty, so there are bytes for every chunk. -/
theorem length_le_length_framesOf (cs : List ChunkRec) : cs.length ≤ (framesOf cs).length := by
  induction cs with
  | nil => exact Nat.le_refl 0
  | cons c cs ih =>
    simp only [framesOf, frame, List.length_append, List.length_cons, be32_length, typeBytes_length]
    omega

theorem parse_of_not_sig {buf : Bytes} (h : ¬ ∃ r, buf = sig ++ r) :
    parse buf = .error .invalidSignature :=
  if_neg (mt (memRead_zero_eq_some_iff (d := sig) rfl buf).1 h)

/-- Behind the signature parse is the loop. -/
theorem parse_sig_append (r : Bytes) : parse (sig ++ r) = parseFrom r (sig ++ r).length 0 := by
  rw [parse, if_pos ((memRead_zero_eq_some_iff (n := sigLen) rfl _).2 ⟨r, rfl⟩)]
  exact parseFrom_append_left sig r _ 0

/-- Behind the frames of sound chunks parse is the loop on the rest, with a round to spare. -/
theorem parse_wire_append {cs : List ChunkRec} (h : ∀ c ∈ cs, ChunkOk c) (rest : Bytes) :
    ∃ n, parse (wire cs ++ rest) = (parseFrom rest (n + 1) 0).map (cs ++ ·) := by
  have rounds := length_le_length_framesOf cs
  obtain ⟨n, hn⟩ : ∃ n, (sig ++ (framesOf cs ++ rest)).length = n + 1 + cs.length :=
    ⟨7 + (framesOf cs).length + rest.length - cs.length, by
      simp only [List.length_append, sig, List.length_cons, List.length_nil]; omega⟩
  refine ⟨n, ?_⟩
  rw [wire, List.append_assoc, parse_sig_append, hn, parseFrom_framesOf_append h]

/-- The wire format is uniquely decodable, and parse decodes it. -/
theorem parse_eq_ok_iff (buf : Bytes) (cs : List ChunkRec) :
    parse buf = .ok cs ↔ buf = wire cs ∧ ∀ c ∈ cs, ChunkOk c := by
  constructor
  · intro ok
    by_cases begins : ∃ r, buf = sig ++ r
    · obtain ⟨r, rfl⟩ := begins
      rw [parse_sig_append] at ok
      obtain ⟨rfl, sound⟩ := eq_framesOf_of_parseFrom_eq_ok ok
      exact ⟨rfl, sound⟩
    · cases ok.symm.trans (parse_of_not_sig begins)
  · rintro ⟨rfl, sound⟩
    obtain ⟨n, hn⟩ := parse_wire_append sound []
    rw [List.append_nil, parseFrom_of_length_le _ (Nat.le_refl 0)] at hn
    rw [hn, Except.map, List.append_nil]

/-- R194: after sound frames the first bad one decides. -/
theorem parse_wire_append_of_error {cs : List ChunkRec} {rest : Bytes} {k : ErrorKind}
    (h : ∀ c ∈ cs, ChunkOk c) (more : rest ≠ []) (err : decodeAt rest 0 = .error k) :
    parse (wire cs ++ rest) = .error k := by
  obtain ⟨n, hn⟩ := parse_wire_append h rest
  rw [hn, parseFrom_succ_of_error n (List.length_pos_iff.2 more) err, Except.map]

end Sys2Proof.Machine
end

section
/-! The commands of the container as whole next states (R192, R197 to R202), and what an OK of one says
of the state before it. -/

namespace Sys2Proof.Machine

/-- A command that starts from the container is REFUSED with NOT_LOADED while LOADED = 0 (R190). -/
theorem exec_of_not_loaded {i : Instr} {s : State}
    (hi : i ∈ [Instr.ctRemove, .ctFind, .ctSerialize, .ctDescribe]) (h : s.loaded = false) :
    exec i s = .next { s with status := 0x37 } := by
  have refused f := (needLoaded_eq s.toBlock f).1 h
  refine exec_eq_of_block_eq ?_
  simp only [List.mem_cons, List.not_mem_nil, or_false] at hi
  obtain rfl | rfl | rfl | rfl := hi
  · exact (refused _ : cmdCtRemove s.toBlock = _)
  · exact (refused _ : cmdCtFind s.toBlock = _)
  · exact (refused _ : cmdCtSerialize s.caps s.toBlock = _)
  · exact (refused _ : cmdCtDescribe s.caps s.toBlock = _)

/-- R197 with WCH valid, the container not yet tested. -/
theorem cmdCtAppend_of_wch {b : Block} {c : ChunkRec} (h : b.wch = some c) (k : Caps) :
    cmdCtAppend k b = needLoaded b fun cs =>
      if fitsList k (cs ++ [c]) then
        done ((b.withClist (cs ++ [c])).withRes (BitVec.ofNat 32 (cs.length + 1)))
      else refuse .capacity b :=
  (needWch_eq b _).2 c h

/-- R192: an error of parse. -/
theorem exec_ctParse_of_error {s : State} {k : ErrorKind} (err : parse s.ibuf = .error k) :
    exec .ctParse s = .next { s with status := errorByte k } := by
  refine exec_eq_of_block_eq (?_ : cmdCtParse s.caps s.toBlock = _)
  rw [cmdCtParse, inputBytes, err]
  exact raise_eq k s.toBlock

/-- A command that ends with the capacity test of a list (R192, R197): CAPACITY when it does not fit. -/
theorem exec_of_fitsList {i : Instr} {s : State} {cs : List ChunkRec} {b : Block}
    (hi : Block.exec s.caps i s.toBlock =
      if fitsList s.caps cs then b else refuse .capacity s.toBlock) :
    (FitsList s.caps cs → exec i s = .next { s with toBlock := b }) ∧
    (¬ FitsList s.caps cs → exec i s = .next { s with status := 0x47 }) := by
  rw [← fitsList_iff]
  exact ⟨fun fit => exec_eq_of_block_eq (hi.trans (if_pos fit)),
    fun noFit => exec_eq_of_block_eq (hi.trans ((if_neg noFit).trans (refuse_eq ..)))⟩

/-- R192: a list that parse answers, with CAPACITY as the last check. -/
theorem exec_ctParse_of_ok {s : State} {cs : List ChunkRec} (ok : parse s.ibuf = .ok cs) :
    (FitsList s.caps cs → exec .ctParse s = .next { s with
      clist := cs, loaded := true, res := BitVec.ofNat 32 cs.length, status := 0x00 }) ∧
    (¬ FitsList s.caps cs → exec .ctParse s = .next { s with status := 0x47 }) := by
  refine exec_of_fitsList (?_ : cmdCtParse s.caps s.toBlock = _)
  rw [cmdCtParse, inputBytes, ok]
  rfl

/-- R197 with WCH valid and the container loaded, CAPACITY as the last check. -/
theorem exec_ctAppend {s : State} {c : ChunkRec} (hc : s.wch = some c) (loaded : s.loaded = true) :
    (FitsList s.caps (s.clist ++ [c]) → exec .ctAppend s = .next { s with
      clist := s.clist ++ [c], res := BitVec.ofNat 32 (s.clist.length + 1), status := 0x00 }) ∧
    (¬ FitsList s.caps (s.clist ++ [c]) → exec .ctAppend s = .next { s with status := 0x47 }) :=
  exec_of_fitsList
    ((cmdCtAppend_of_wch hc s.caps).trans ((needLoaded_eq s.toBlock _).2 loaded))

/-- R233: with WCH valid the container is the next operand asked for. -/
theorem exec_ctAppend_of_not_loaded {s : State} {c : ChunkRec} (hc : s.wch = some c)
    (h : s.loaded = false) : exec .ctAppend s = .next { s with status := 0x37 } :=
  exec_eq_of_block_eq ((cmdCtAppend_of_wch hc s.caps).trans ((needLoaded_eq s.toBlock _).1 h))

/-- R198: the search finds a chunk that has the text's type where none before it has. -/
theorem firstMatch_of_first {q : Bytes} {cs pre post : List ChunkRec} {c : ChunkRec}
    (list : cs = pre ++ c :: post) (text : q = typeBytes c.type)
    (first : ∀ d ∈ pre, d.type ≠ c.type) : firstMatch q cs = some (pre.length, c) := by
  refine (firstMatch_eq_some_iff ..).2 ⟨pre, post, list, rfl, text, fun d hd => ?_⟩
  rw [text, ne_eq, typeBytes_inj]
  exact (first d hd).symm

section
variable {s : State} {pre post : List ChunkRec} {c : ChunkRec}

/-- R198: CT.REMOVE with a first match. -/
theorem exec_ctRemove_of_firstMatch (loaded : s.loaded = true) (list : s.clist = pre ++ c :: post)
    (text : s.ibuf = typeBytes c.type) (first : ∀ d ∈ pre, d.type ≠ c.type) :
    exec .ctRemove s = .next { s with
      clist := pre ++ post, res := BitVec.ofNat 32 pre.length, status := 0x00 } := by
  refine exec_eq_of_block_eq (?_ : cmdCtRemove s.toBlock = _)
  rw [cmdCtRemove, (needLoaded_eq s.toBlock _).2 loaded, inputBytes,
    firstMatch_of_first list text first]
  simp only [list, List.take_left', List.drop_length_add_append, List.drop_one, List.tail_cons]
  rfl

/-- R200: CT.FIND with a first match. -/
theorem exec_ctFind_of_firstMatch (loaded : s.loaded = true) (list : s.clist = pre ++ c :: post)
    (text : s.ibuf = typeBytes c.type) (first : ∀ d ∈ pre, d.type ≠ c.type) :
    exec .ctFind s = .next { s with
      wch := some c, res := BitVec.ofNat 32 pre.length, status := 0x00 } := by
  refine exec_eq_of_block_eq (?_ : cmdCtFind s.toBlock = _)
  rw [cmdCtFind, (needLoaded_eq s.toBlock _).2 loaded, inputBytes,
    firstMatch_of_first list text first]
  rfl

end

/-- R198 and R199: CT.REMOVE of a text that is no chunk's type. -/
theorem exec_ctRemove_of_no_match {s : State} (loaded : s.loaded = true)
    (noMatch : ∀ d ∈ s.clist, s.ibuf ≠ typeBytes d.type) :
    exec .ctRemove s = .next { s with status := 0x06 } := by
  refine exec_eq_of_block_eq (?_ : cmdCtRemove s.toBlock = _)
  rw [cmdCtRemove, (needLoaded_eq s.toBlock _).2 loaded, inputBytes,
    (firstMatch_eq_none_iff ..).2 noMatch]
  exact raise_eq .notFound s.toBlock

/-- R200 and R199: CT.FIND of a text that is no chunk's type. -/
theorem exec_ctFind_of_no_match {s : State} (loaded : s.loaded = true)
    (noMatch : ∀ d ∈ s.clist, s.ibuf ≠ typeBytes d.type) :
    exec .ctFind s = .next { s with status := 0x06 } := by
  refine exec_eq_of_block_eq (?_ : cmdCtFind s.toBlock = _)
  rw [cmdCtFind, (needLoaded_eq s.toBlock _).2 loaded, inputBytes,
    (firstMatch_eq_none_iff ..).2 noMatch]
  exact raise_eq .notFound s.toBlock

/-- R201 with the container loaded, CAPACITY as the last check. -/
theorem exec_ctSerialize {s : State} (loaded : s.loaded = true) :
    (FitsBuf s.caps (serializedLength s.clist) →
      exec .ctSerialize s = .next { s with obuf := wire s.clist, status := 0x00 }) ∧
    (¬ FitsBuf s.caps (serializedLength s.clist) →
      exec .ctSerialize s = .next { s with status := 0x47 }) := by
  rw [← wireLen_eq]
  exact exec_of_emit ((needLoaded_eq s.toBlock _).2 loaded : cmdCtSerialize s.caps s.toBlock = _)

/-- R202 with the container loaded, CAPACITY as the last check. -/
theorem exec_ctDescribe {s : State} {text : Bytes} (loaded : s.loaded = true)
    (htext : describeText s.clist = text) :
    (FitsBuf s.caps text.length →
      exec .ctDescribe s = .next { s with obuf := text, status := 0x00 }) ∧
    (¬ FitsBuf s.caps text.length → exec .ctDescribe s = .next { s with status := 0x47 }) := by
  subst htext
  exact exec_of_emit ((needLoaded_eq s.toBlock _).2 loaded : cmdCtDescribe s.caps s.toBlock = _)

theorem errorByte_ne_ok (k : ErrorKind) : errorByte k ≠ 0x00 := by
  cases k <;> decide

/-- Of a command that a test parts into two next states, the second not OK, an OK is the first. -/
theorem eq_of_status_ok {i : Instr} {s t u v : State} {fits : Prop}
    (h : (fits → exec i s = .next u) ∧ (¬ fits → exec i s = .next v)) (bad : v.status ≠ 0x00)
    (ht : exec i s = .next t) (ok : t.status = 0x00) : t = u := by
  obtain ⟨fit, noFit⟩ := h
  by_cases test : fits
  · exact Host.Outcome.next.inj (ht.symm.trans (fit test))
  · cases ht.symm.trans (noFit test)
    exact absurd ok bad

/-- CT.PARSE ends OK only with a list that parse answers. -/
theorem of_exec_ctParse_ok {s t : State} (ht : exec .ctParse s = .next t) (ok : t.status = 0x00) :
    ∃ cs, parse s.ibuf = .ok cs ∧ t = { s with
      clist := cs, loaded := true, res := BitVec.ofNat 32 cs.length, status := 0x00 } := by
  cases parsed : parse s.ibuf with
  | error k =>
    cases ht.symm.trans (exec_ctParse_of_error parsed)
    exact absurd ok (errorByte_ne_ok k)
  | ok cs => exact ⟨cs, rfl, eq_of_status_ok (exec_ctParse_of_ok parsed) nofun ht ok⟩

/-- CT.APPEND ends OK only with the container loaded and the longer list. -/
theorem of_exec_ctAppend_ok {s t : State} {c : ChunkRec} (hc : s.wch = some c)
    (ht : exec .ctAppend s = .next t) (ok : t.status = 0x00) :
    s.loaded = true ∧ t = { s with
      clist := s.clist ++ [c], res := BitVec.ofNat 32 (s.clist.length + 1), status := 0x00 } := by
  obtain loaded | loaded := Bool.eq_false_or_eq_true s.loaded
  · exact ⟨loaded, eq_of_status_ok (exec_ctAppend hc loaded) nofun ht ok⟩
  · cases ht.symm.trans (exec_ctAppend_of_not_loaded hc loaded)
    cases ok

/-- CT.SERIALIZE ends OK only with the container loaded and its wire form in OBUF. -/
theorem of_exec_ctSerialize_ok {s t : State} (ht : exec .ctSerialize s = .next t)
    (ok : t.status = 0x00) :
    s.loaded = true ∧ t = { s with obuf := wire s.clist, status := 0x00 } := by
  obtain loaded | loaded := Bool.eq_false_or_eq_true s.loaded
  · exact ⟨loaded, eq_of_status_ok (exec_ctSerialize loaded) nofun ht ok⟩
  · cases ht.symm.trans (exec_of_not_loaded (by decide) loaded)
    cases ok

end Sys2Proof.Machine
end

section
/-! The container's obligations (R192 to R204). -/

namespace Sys2Proof.Machine

/-- Settles O55: (a) an accepted buffer is the wire form of the list parse answers; (b) parse of a wire
form answers its chunks. -/
theorem parseAndSerializeRoundTrip : Obligations.ParseAndSerializeRoundTrip := by
  refine ⟨fun s t ht ok fit => ?_, fun s t sound fit ht ok => ?_⟩
  · obtain ⟨cs, parsed, rfl⟩ := of_exec_ctParse_ok ht ok
    obtain ⟨bytes, sound⟩ := (parse_eq_ok_iff ..).1 parsed
    rw [bytes, wire_length sound] at fit
    rw [bytes]
    exact (exec_ctSerialize rfl).1 fit
  · obtain ⟨-, rfl⟩ := of_exec_ctSerialize_ok ht ok
    have parsed : parse (wire s.clist) = .ok s.clist := (parse_eq_ok_iff ..).2 ⟨rfl, sound⟩
    exact ⟨wire_length sound, (exec_ctParse_of_ok parsed).1 fit⟩

/-- Settles O49: what parse answers on each kind of buffer; the signature alone is the wire form of the
empty list, which fits any capacities. -/
theorem parseCommandIsAllOrNothing : Obligations.ParseCommandIsAllOrNothing := by
  refine ⟨codedAs_of_mem (by simp [opcodeMap]), fun s => ⟨fun begins => ?_,
    fun cs rest k sound more bytes err => ?_, fun cs sound bytes => ?_, fun bytes => ?_⟩⟩
  · exact exec_ctParse_of_error (parse_of_not_sig begins)
  · exact exec_ctParse_of_error (bytes ▸ parse_wire_append_of_error sound more err)
  · exact exec_ctParse_of_ok ((parse_eq_ok_iff ..).2 ⟨bytes, sound⟩)
  · have parsed := (parse_eq_ok_iff s.ibuf []).2 ⟨bytes, List.forall_mem_nil _⟩
    exact (exec_ctParse_of_ok parsed).1 ⟨Nat.zero_le _, fun _ _ => Nat.zero_le _⟩

/-- Settles O50: the command's next states, in R233's order of checks. -/
theorem appendAddsAtTheEnd : Obligations.AppendAddsAtTheEnd :=
  ⟨codedAs_of_mem (by simp [opcodeMap]), fun _ => ⟨fun _ => exec_ctAppend,
    fun _ => exec_ctAppend_of_not_loaded, exec_of_wch_none rfl⟩⟩

/-- Settles O51: the search stops at the chunk of the statement, or nowhere. -/
theorem removeTakesTheFirstMatch : Obligations.RemoveTakesTheFirstMatch :=
  ⟨codedAs_of_mem (by simp [opcodeMap]), fun _ =>
    ⟨fun loaded _ _ _ => exec_ctRemove_of_firstMatch loaded,
      exec_ctRemove_of_no_match, exec_of_not_loaded (by decide)⟩⟩

/-- Settles O52: the search stops at the chunk of the statement, or nowhere. -/
theorem findCopiesTheFirstMatch : Obligations.FindCopiesTheFirstMatch :=
  ⟨codedAs_of_mem (by simp [opcodeMap]), fun _ =>
    ⟨fun loaded _ _ _ => exec_ctFind_of_firstMatch loaded,
      exec_ctFind_of_no_match, exec_of_not_loaded (by decide)⟩⟩

/-- Settles O53: the bytes the command emits are the wire form, and a buffer that parse accepted is the
wire form of the list. -/
theorem serializeWritesTheWireForm : Obligations.SerializeWritesTheWireForm := by
  refine ⟨codedAs_of_mem (by simp [opcodeMap]), fun s => ⟨fun loaded fit => ?_,
    fun loaded fit buf parsed => ?_, fun loaded => ?_, fun t sound ht ok => ?_,
    exec_of_not_loaded (by decide)⟩⟩
  · rw [← framesOf_eq]
    exact (exec_ctSerialize loaded).1 fit
  · obtain ⟨rfl, -⟩ := (parse_eq_ok_iff ..).1 parsed
    exact (exec_ctSerialize loaded).1 fit
  · exact (exec_ctSerialize loaded).2
  · obtain ⟨-, rfl⟩ := of_exec_ctSerialize_ok ht ok
    exact wire_length sound

/-- The text of CT.DESCRIBE of two lists that agree on type, length and crc (R202). -/
theorem describeText_congr {cs ds : List ChunkRec}
    (h : cs.map (fun c => (c.type, c.length, c.crc)) = ds.map (fun c => (c.type, c.length, c.crc))) :
    describeText cs = describeText ds :=
  congrArg (Config.describeFmt sig) h

/-- Settles O54: the text is all that the command takes from the list. -/
theorem describeDependsOnHeadersAlone : Obligations.DescribeDependsOnHeadersAlone := by
  refine ⟨codedAs_of_mem (by simp [opcodeMap]), fun s loaded text htext => ?_,
    fun s => exec_of_not_loaded (by decide), fun s t cs headers ht => ?_⟩
  · exact exec_ctDescribe loaded htext.symm
  · have sameText := describeText_congr headers
    obtain loaded | loaded := Bool.eq_false_or_eq_true s.loaded
    · obtain ⟨fit, noFit⟩ := exec_ctDescribe loaded rfl
      obtain ⟨fit', noFit'⟩ := exec_ctDescribe (s := { s with clist := cs }) loaded sameText
      by_cases h : FitsBuf s.caps (describeText s.clist).length
      · cases ht.symm.trans (fit h)
        exact fit' h
      · cases ht.symm.trans (noFit h)
        exact noFit' h
    · cases ht.symm.trans (exec_of_not_loaded (by decide) loaded)
      exact exec_of_not_loaded (i := .ctDescribe) (by decide) loaded

/-- Settles O56: after the append the first match is the appended chunk, or the earliest original. -/
theorem appendThenRemoveByType : Obligations.AppendThenRemoveByType := by
  intro s t c hc ht ok
  obtain ⟨loaded, rfl⟩ := of_exec_ctAppend_ok hc ht ok
  refine ⟨fun new => ?_, fun pre post d list same first => ?_⟩
  · refine (exec_ctRemove_of_firstMatch (post := []) ?_ ?_ ?_ new).trans ?_
    · exact loaded
    · rfl
    · rfl
    · rw [List.append_nil]
  · rw [← same] at first ⊢
    rw [List.append_assoc]
    refine exec_ctRemove_of_firstMatch ?_ ?_ ?_ first
    · exact loaded
    · rw [list, List.append_assoc, List.cons_append]
    · rfl

end Sys2Proof.Machine
end

section
/-! Reset (R260): a reset move puts the block to its reset value, whatever it held, and the fields and
views of that value are those of R260's table. -/

namespace Sys2Proof.Machine

/-- The step of a block whose host resets it next: the block's reset value, with what stands outside
the block kept and the move taken off (R260, R268; log entry 1). -/
theorem step_of_reset {s : State} {ms : List HostMove} (h : s.moves = .reset :: ms) :
    step s = .next ((s.withMoves ms).withBlock Block.reset) := by
  simp only [step, nextMove, h, runMove, resetBlock]

/-- R260's table, read off a state whose block is the reset value. -/
theorem tabledValues_of_toBlock_eq_reset {t : State} (h : t.toBlock = Block.reset) :
    t.crcr = 0xFFFFFFFF ∧ t.wtc = none ∧ t.wch = none ∧ t.res = 0 ∧ t.status = 0x00 ∧
      t.loaded = false ∧ t.clist = [] ∧ t.nchunks = 0 ∧ t.ibuf = [] ∧ t.ilen = 0 ∧ t.obuf = [] ∧
      t.olen = 0 ∧ t.busy = 0 := by
  rw [h]
  exact ⟨rfl, rfl, rfl, rfl, rfl, rfl, rfl, rfl, rfl, rfl, rfl, rfl, rfl⟩

/-- Settles O9: at the start and after a host reset from any state the block is the reset value. -/
theorem resetLeavesTheTabledValues : Obligations.ResetLeavesTheTabledValues := by
  rintro t (rfl | ⟨s, ms, hms, ht⟩)
  · exact tabledValues_of_toBlock_eq_reset rfl
  · cases (step_of_reset hms).symm.trans ht
    exact tabledValues_of_toBlock_eq_reset (State.withBlock_toBlock ..)

end Sys2Proof.Machine
end

section
/-! Decode and encode (R80, R82, R83): the row of a command in the opcode map, and decode on any word as
its two fields. -/

namespace Sys2Proof.Machine

/-- A word is its CMD_OP and its CMD_ARG (R80). -/
theorem cmdWord_cmdOp_cmdArg (w : CmdWord) : cmdWord (cmdOp w) (cmdArg w) = w := by
  apply BitVec.eq_of_getLsbD_eq
  intro i hi
  simp only [cmdWord, cmdOp, cmdArg, BitVec.getLsbD_append, BitVec.getLsbD_extractLsb', Nat.zero_add]
  by_cases low : i < 32
  · simp only [low, if_true, decide_true, Bool.true_and]
  · simp only [low, if_false, show i - 32 < 8 by omega, decide_true, Bool.true_and,
      show 32 + (i - 32) = i by omega]

theorem cmdWord_inj {op op' : Byte} {arg arg' : Word} :
    cmdWord op arg = cmdWord op' arg' ↔ op = op' ∧ arg = arg' := by
  constructor
  · intro h
    have hop := congrArg cmdOp h
    have harg := congrArg cmdArg h
    simp only [Laws.cmdOp_cmdWord, Laws.cmdArg_cmdWord] at hop harg
    exact ⟨hop, harg⟩
  · rintro ⟨rfl, rfl⟩
    rfl

/-- Masking a word masks its two fields. -/
theorem cmdWord_and (op op' : Byte) (arg arg' : Word) :
    cmdWord op arg &&& cmdWord op' arg' = cmdWord (op &&& op') (arg &&& arg') :=
  BitVec.and_append

/-- Bits 7:0 of a word, by mask and by bit field. -/
theorem and_0xFF_eq_setWidth (arg : Word) : arg &&& 0xFF = (arg.setWidth 8).setWidth 32 := by
  apply BitVec.eq_of_toNat_eq
  rw [and_0xFF_toNat, BitVec.extractLsb'_toNat]
  simp only [BitVec.toNat_setWidth]
  omega

/-- R82 and R83: a row gives commands of its own CMD_OP, whose operand is the masked CMD_ARG. -/
theorem opcode_argument_of_mem {p : Byte × (Word → Instr)} (hp : p ∈ opcodeMap) (arg : Word) :
    opcode (p.2 arg) = p.1 ∧ argument (p.2 arg) = arg &&& argMask (p.2 arg) := by
  fin_cases hp <;> refine ⟨rfl, Eq.symm ?_⟩
  any_goals apply BitVec.and_zero
  -- the rows of CRC.UPDB, TC.FROMBYTES and CH.DECODE
  · exact and_0xFF_eq_setWidth arg
  · exact BitVec.and_allOnes
  · exact BitVec.and_allOnes

/-- R82 and R83: every command has a row, which gives it for every CMD_ARG that is its operand once
masked. -/
theorem exists_row (i : Instr) : ∃ p ∈ opcodeMap, p.1 = opcode i ∧
    ∀ arg : Word, arg &&& argMask i = argument i → p.2 arg = i := by
  cases i
  case crcUpdb b =>
    refine ⟨(0x01, fun a => .crcUpdb (a.setWidth 8)), by simp [opcodeMap], rfl, fun arg masked => ?_⟩
    have low : (arg.setWidth 8).setWidth 32 = b.setWidth 32 :=
      (and_0xFF_eq_setWidth arg).symm.trans masked
    have byte := congrArg (BitVec.setWidth 8) low
    simpa using congrArg Instr.crcUpdb byte
  case tcFrombytes v =>
    exact ⟨(0x10, .tcFrombytes), by simp [opcodeMap], rfl,
      fun _ masked => congrArg Instr.tcFrombytes (BitVec.and_allOnes.symm.trans masked)⟩
  case chDecode off =>
    exact ⟨(0x21, .chDecode), by simp [opcodeMap], rfl,
      fun _ masked => congrArg Instr.chDecode (BitVec.and_allOnes.symm.trans masked)⟩
  all_goals exact ⟨(_, fun _ => _), by simp [opcodeMap], rfl, fun _ _ => rfl⟩

/-- Decode on the two fields of a word: the CMD_OP is the command's, and the CMD_ARG is its operand up to
the bits it ignores. -/
theorem decode_cmdWord_eq_ok_iff (op : Byte) (arg : Word) (i : Instr) :
    decode (cmdWord op arg) = .ok i ↔ op = opcode i ∧ arg &&& argMask i = argument i := by
  constructor
  · intro ok
    obtain undefined | ⟨p, hp, rfl⟩ := undefinedOpcode_or_mem op
    · cases ok.symm.trans (decode_cmdWord_of_undefined undefined arg)
    · obtain rfl := Except.ok.inj (ok.symm.trans (decode_cmdWord_of_mem hp arg))
      obtain ⟨hop, harg⟩ := opcode_argument_of_mem hp arg
      exact ⟨hop.symm, harg.symm⟩
  · rintro ⟨rfl, masked⟩
    obtain ⟨p, hp, hop, row⟩ := exists_row i
    rw [← hop, decode_cmdWord_of_mem hp, row arg masked]

/-- An operand has no bit outside its field (R83). -/
theorem argument_and_argMask (i : Instr) : argument i &&& argMask i = argument i := by
  cases i
  case crcUpdb b => exact (and_0xFF_eq_setWidth _).trans (by simp [argument])
  case tcFrombytes v => exact BitVec.and_allOnes
  case chDecode off => exact BitVec.and_allOnes
  all_goals rfl

/-- Settles O4: the word of a command carries its CMD_OP and its operand. -/
theorem decodeOfEncodeIsTheCommand : Obligations.DecodeOfEncodeIsTheCommand :=
  fun i _ => (decode_cmdWord_eq_ok_iff ..).2 ⟨rfl, argument_and_argMask i⟩

/-- Settles O5: masking a word keeps its CMD_OP and clears the bits of CMD_ARG that decode ignores. -/
theorem decodedWordsAreEncodingsUpToIgnoredBits :
    Obligations.DecodedWordsAreEncodingsUpToIgnoredBits := by
  intro w i
  have op_kept : cmdOp w &&& 0xFF = cmdOp w := BitVec.and_allOnes
  rw [← cmdWord_cmdOp_cmdArg w, cmdWord_and, op_kept, encode, cmdWord_inj]
  exact decode_cmdWord_eq_ok_iff ..

/-- Settles O6: the words, evaluated. -/
theorem listedWordsDecode : Obligations.ListedWordsDecode := by
  unfold Obligations.ListedWordsDecode
  decide

end Sys2Proof.Machine
end

section
/-! The container's wire format: what parse accepts, its length, and the loop with rounds to spare
(R191 to R196). -/

namespace Sys2Proof.Machine

/-- Settles O47: parse is the loop behind the signature, and the loop accepts frames of sound chunks. -/
theorem parseAcceptsExactlyWireForms : Obligations.ParseAcceptsExactlyWireForms := parse_eq_ok_iff

/-- Settles O46: the length of each frame, summed. -/
theorem wireLengthIsTheSumOfFrames : Obligations.WireLengthIsTheSumOfFrames := fun _ => wire_length

/-- A decoded frame takes 12 bytes or more, all of them in the buffer. -/
theorem used_of_decodeAt_eq_ok {buf : Bytes} {off used : Nat} {c : ChunkRec}
    (ok : decodeAt buf off = .ok (c, used)) : 12 ≤ used ∧ off + used ≤ buf.length := by
  obtain ⟨-, rfl, read⟩ := (decodeAt_eq_ok_iff ..).1 ok
  exact ⟨Nat.le_add_right .., ((memRead_eq_some_iff ..).1 read).1⟩

/-- R193: with as many rounds as bytes left, one more round does not matter. -/
theorem parseFrom_succ_eq {buf : Bytes} {n cur : Nat} (enough : buf.length ≤ cur + n) :
    parseFrom buf (n + 1) cur = parseFrom buf n cur := by
  induction n generalizing cur with
  | zero =>
    have atEnd : buf.length ≤ cur := enough
    rw [parseFrom_of_length_le _ atEnd, parseFrom_of_length_le _ atEnd]
  | succ n ih =>
    obtain inside | atEnd := Nat.lt_or_ge cur buf.length
    · cases decoded : decodeAt buf cur with
      | error k => rw [parseFrom_succ_of_error _ inside decoded, parseFrom_succ_of_error _ inside decoded]
      | ok p =>
        obtain ⟨c, used⟩ := p
        have advance := (used_of_decodeAt_eq_ok decoded).1
        rw [parseFrom_succ_of_ok _ inside decoded, parseFrom_succ_of_ok _ inside decoded, ih (by omega)]
    · rw [parseFrom_of_length_le _ atEnd, parseFrom_of_length_le _ atEnd]

/-- Settles O48: inside the buffer there is a round, it decodes the frame at the cursor, and the rounds
after it are enough for the rest. -/
theorem parseLoopDecodesFrameByFrame : Obligations.ParseLoopDecodesFrameByFrame := by
  intro buf n cur enough
  refine ⟨fun inside k err => ?_, fun inside c used ok => ?_, parseFrom_of_length_le n⟩
  · obtain ⟨n, rfl⟩ : ∃ m, n = m + 1 := ⟨n - 1, by omega⟩
    exact parseFrom_succ_of_error n inside err
  · obtain ⟨n, rfl⟩ : ∃ m, n = m + 1 := ⟨n - 1, by omega⟩
    obtain ⟨advance, fits⟩ := used_of_decodeAt_eq_ok ok
    refine ⟨by omega, fits, ?_⟩
    rw [parseFrom_succ_of_ok n inside ok, parseFrom_succ_eq (by omega)]
    cases parseFrom buf n (cur + used) <;> rfl

end Sys2Proof.Machine
end

section
/-! One step (R8, R268): an equation per host move, and what any step can make of the block. -/

namespace Sys2Proof.Machine

/-- H.CMD is the block's own step on the block (R20, R36). -/
theorem runCmd_eq (w : CmdWord) (s : State) :
    runCmd w s = .next { s with toBlock := Block.step s.caps w s.toBlock } := by
  cases decoded : decode w with
  | error e =>
    simp only [runCmd, Block.step, decoded]
    rfl
  | ok i =>
    simp only [runCmd, Block.step, decoded]
    exact exec_eq i s

/-- The block's step on a word that decodes to no command (R86). -/
theorem blockStep_of_decode_error {w : CmdWord} {e : DecodeError} (h : decode w = .error e) (k : Caps)
    (b : Block) : Block.step k w b = { b with status := 0x17 } := by
  simp only [Block.step, h, refuse_eq, refusedByte]

/-- The block's step on a word that decodes to a command (R8, R82). -/
theorem blockStep_of_decode_ok {w : CmdWord} {i : Instr} (h : decode w = .ok i) (k : Caps)
    (b : Block) : Block.step k w b = Block.exec k i b := by
  simp only [Block.step, h]

/-- The precondition of H.WRIBUF is that the bytes fit CAP_BUF (R268). -/
theorem wribuf_wf_iff (c : Caps) (bs : Bytes) :
    HostMove.wf c (.wribuf bs) = true ↔ FitsBuf c bs.length :=
  fitsBuf_iff c bs.length

section
variable {s : State} {ms : List HostMove}

/-- H.WRIBUF of bytes that fit (R268). -/
theorem step_of_wribuf_fits {bs : Bytes} (h : s.moves = .wribuf bs :: ms)
    (fit : FitsBuf s.caps bs.length) : step s = .next { s with moves := ms, ibuf := bs } := by
  simp only [step, nextMove, h, runMove, writeIbuf, State.withMoves_caps, (wribuf_wf_iff ..).2 fit]
  rfl

/-- H.WRIBUF of more than CAP_BUF bytes is no move of the host (R268, U19). -/
theorem step_of_wribuf_not_fits {bs : Bytes} (h : s.moves = .wribuf bs :: ms)
    (noFit : ¬ FitsBuf s.caps bs.length) : step s = .fault .wribufPastCapBuf := by
  simp only [step, nextMove, h, runMove, writeIbuf, State.withMoves_caps,
    mt (wribuf_wf_iff ..).1 noFit, Bool.false_eq_true, if_false]

theorem step_of_rdobuf (h : s.moves = .rdobuf :: ms) :
    step s = .next { s with moves := ms, replies := s.replies ++ [.obuf s.obuf] } := by
  simp only [step, nextMove, h]
  rfl

theorem step_of_rdreg {r : HostReg} (h : s.moves = .rdreg r :: ms) :
    step s = .next { s with moves := ms, replies := s.replies ++ [.reg r (readReg r s)] } := by
  simp only [step, nextMove, h]
  cases r <;> rfl

/-- The block waits while the host makes no move (R260). -/
theorem step_of_no_move (h : s.moves = []) : step s = .next s := by
  simp only [step, nextMove, h]

end

/-- What a host move can make of the block, under the capacities `k` (R268). -/
inductive BlockMove (k : Caps) (b : Block) : Block → Prop
  | keep : BlockMove k b b
  | write {bs : Bytes} (fit : FitsBuf k bs.length) : BlockMove k b (b.withIbuf bs)
  | command (w : CmdWord) : BlockMove k b (Block.step k w b)
  | reset : BlockMove k b Block.reset

/-- Every step is a move of the block under the capacities, which it keeps, or the fault of an oversized
H.WRIBUF. -/
theorem step_cases (s : State) :
    (∃ bs ms, s.moves = .wribuf bs :: ms ∧ ¬ FitsBuf s.caps bs.length ∧
      step s = .fault .wribufPastCapBuf) ∨
    ∃ t, step s = .next t ∧ t.caps = s.caps ∧ BlockMove s.caps s.toBlock t.toBlock := by
  match hm : s.moves with
  | [] => exact .inr ⟨s, step_of_no_move hm, rfl, .keep⟩
  | .wribuf bs :: ms =>
    by_cases fit : FitsBuf s.caps bs.length
    · exact .inr ⟨_, step_of_wribuf_fits hm fit, rfl, .write fit⟩
    · exact .inl ⟨bs, ms, rfl, fit, step_of_wribuf_not_fits hm fit⟩
  | .cmd w :: ms => exact .inr ⟨_, (step_of_cmd hm).trans (runCmd_eq w _), rfl, .command w⟩
  | .rdobuf :: ms => exact .inr ⟨_, step_of_rdobuf hm, rfl, .keep⟩
  | .rdreg r :: ms => exact .inr ⟨_, step_of_rdreg hm, rfl, .keep⟩
  | .reset :: ms => exact .inr ⟨_, step_of_reset hm, rfl, .reset⟩

/-- Settles O10: each command is a function on the block. -/
theorem everyCommandHasANextState : Obligations.EveryCommandHasANextState :=
  fun i s => ⟨_, exec_eq i s⟩

/-- Settles O60: a command word is the block's step, put back into the state. -/
theorem commandIsAStepOfTheBlock : Obligations.CommandIsAStepOfTheBlock := runCmd_eq

/-- Settles O7: the step of a presented word, which decodes to `i`. -/
theorem stepRunsThePresentedCommand : Obligations.StepRunsThePresentedCommand := by
  intro s w i ms decoded _ hm
  simp only [step_of_cmd hm, runCmd, decoded]
  rfl

/-- Settles O8: the equation of each move; a register read gives the value of its row. -/
theorem hostActionsTouchOnlyWhatTheyName : Obligations.HostActionsTouchOnlyWhatTheyName := by
  refine ⟨fun s bs ms hm => ⟨fun fit => ⟨_, step_of_wribuf_fits hm fit, rfl, rfl⟩,
    step_of_wribuf_not_fits hm⟩, fun s ms => step_of_rdobuf, fun s r ms hm => ?_,
    fun s ms hm => step_of_reset hm, fun s => step_of_no_move⟩
  refine ⟨readReg r s, step_of_rdreg hm, ?_⟩
  refine ⟨?_, ?_, ?_, ?_, ?_, ?_, ?_⟩ <;> rintro rfl <;> rfl

/-- Settles O59: a step keeps the capacities, and its one stop is the oversized write. -/
theorem onlyAnOversizedWriteStops : Obligations.OnlyAnOversizedWriteStops := by
  intro s
  obtain ⟨bs, ms, hm, noFit, fault⟩ | ⟨t, next, caps, -⟩ := step_cases s
  · exact ⟨fun t ht => (nomatch fault.symm.trans ht),
      fun _ => ⟨bs, ms, hm, noFit⟩, fun _ t ht => (nomatch fault.symm.trans ht)⟩
  · refine ⟨fun t' ht' => ?_, fun stops => absurd next (stops t), ?_⟩
    · cases next.symm.trans ht'
      exact caps
    · rintro ⟨bs, ms, hm, noFit⟩
      cases next.symm.trans (step_of_wribuf_not_fits hm noFit)

end Sys2Proof.Machine
end

section
/-! What a command reads and writes (R85): the outcome of one run, carried over to another block, one rule
per shared operation. That a command writes only its columns is the case of the same block twice. -/

namespace Sys2Proof.Machine

/-- `u` with the outcome of `b`: STATUS, and when that is OK the fields of `w`. -/
def Block.withOutcome (w : Writes) (b u : Block) : Block :=
  if b.status = 0x00 then
    { u with
      crcr := if w.crcr then b.crcr else u.crcr
      wtc := if w.wtc then b.wtc else u.wtc
      wch := if w.wch then b.wch else u.wch
      clist := if w.clist then b.clist else u.clist
      loaded := if w.loaded then b.loaded else u.loaded
      res := if w.res then b.res else u.res
      obuf := if w.obuf then b.obuf else u.obuf
      status := 0x00 }
  else { u with status := b.status }

/-- The outcome of a whole state is that of its block. -/
theorem withOutcome_eq (w : Writes) (t u : State) :
    withOutcome w t u = { u with toBlock := t.toBlock.withOutcome w u.toBlock } := by
  unfold withOutcome Block.withOutcome
  split <;> rfl

theorem refusedByte_ne_ok (r : RefuseReason) : refusedByte r ≠ 0x00 := by
  cases r <;> decide

section
variable {b u : Block} (w : Writes)

theorem raise_withOutcome (e : ErrorKind) : raise e u = (raise e b).withOutcome w u := by
  rw [raise_eq, raise_eq, Block.withOutcome, if_neg (errorByte_ne_ok e)]

theorem refuse_withOutcome (r : RefuseReason) : refuse r u = (refuse r b).withOutcome w u := by
  rw [refuse_eq, refuse_eq, Block.withOutcome, if_neg (refusedByte_ne_ok r)]

theorem emit_withOutcome (k : Caps) (n : Nat) (bs : Bytes) :
    emit k n bs u = (emit k n bs b).withOutcome { obuf := true } u := by
  unfold emit
  split
  · rfl
  · exact refuse_withOutcome ..

theorem setWtcChecked_withOutcome (t : TypeCode) :
    setWtcChecked t u = (setWtcChecked t b).withOutcome { wtc := true } u := by
  unfold setWtcChecked
  split
  · rfl
  · exact raise_withOutcome ..

variable {w}

theorem needWtc_withOutcome {f g : TypeCode → Block} (same : b.wtc = u.wtc)
    (h : ∀ t, g t = (f t).withOutcome w u) : needWtc u g = (needWtc b f).withOutcome w u := by
  simp only [needWtc, same]
  split
  · exact refuse_withOutcome ..
  · exact h _

theorem needWch_withOutcome {f g : ChunkRec → Block} (same : b.wch = u.wch)
    (h : ∀ c, g c = (f c).withOutcome w u) : needWch u g = (needWch b f).withOutcome w u := by
  simp only [needWch, same]
  split
  · exact refuse_withOutcome ..
  · exact h _

theorem needLoaded_withOutcome {f g : List ChunkRec → Block} (sameLoaded : b.loaded = u.loaded)
    (sameList : b.clist = u.clist) (h : ∀ cs, g cs = (f cs).withOutcome w u) :
    needLoaded u g = (needLoaded b f).withOutcome w u := by
  simp only [needLoaded, sameLoaded, sameList]
  split
  · exact h _
  · exact refuse_withOutcome ..

theorem wtcProperty_withOutcome (same : b.wtc = u.wtc) (p : TypeCode → Bool) :
    wtcProperty p u = (wtcProperty p b).withOutcome { res := true } u :=
  needWtc_withOutcome same fun _ => rfl

theorem ite_withOutcome {p : Prop} [Decidable p] {x x' y y' : Block}
    (hx : x' = x.withOutcome w u) (hy : y' = y.withOutcome w u) :
    (if p then x' else y') = (if p then x else y).withOutcome w u := by
  split
  · exact hx
  · exact hy

end

section
variable {b u : Block}

theorem cmdTcFromtext_withOutcome (ibuf : b.ibuf = u.ibuf) :
    cmdTcFromtext u = (cmdTcFromtext b).withOutcome { wtc := true } u := by
  simp only [cmdTcFromtext, inputBytes, ibuf]
  split
  · exact setWtcChecked_withOutcome ..
  · exact raise_withOutcome ..

theorem cmdChEncode_withOutcome (wtc : b.wtc = u.wtc) (ibuf : b.ibuf = u.ibuf) :
    cmdChEncode u = (cmdChEncode b).withOutcome { wch := true } u := by
  simp only [cmdChEncode, inputBytes, Block.ilen_eq, ibuf]
  exact needWtc_withOutcome wtc fun _ => ite_withOutcome (refuse_withOutcome ..) rfl

theorem cmdChDecode_withOutcome (off : Word) (ibuf : b.ibuf = u.ibuf) :
    cmdChDecode off u = (cmdChDecode off b).withOutcome { wch := true, res := true } u := by
  simp only [cmdChDecode, inputBytes, Block.ilen_eq, ibuf]
  refine ite_withOutcome (raise_withOutcome ..) ?_
  split
  · exact raise_withOutcome ..
  · rfl

theorem cmdCtParse_withOutcome (k : Caps) (ibuf : b.ibuf = u.ibuf) :
    cmdCtParse k u =
      (cmdCtParse k b).withOutcome { clist := true, loaded := true, res := true } u := by
  simp only [cmdCtParse, inputBytes, ibuf]
  split
  · exact raise_withOutcome ..
  · exact ite_withOutcome rfl (refuse_withOutcome ..)

theorem cmdCtRemove_withOutcome (loaded : b.loaded = u.loaded) (clist : b.clist = u.clist)
    (ibuf : b.ibuf = u.ibuf) :
    cmdCtRemove u = (cmdCtRemove b).withOutcome { clist := true, res := true } u := by
  simp only [cmdCtRemove, inputBytes, ibuf]
  refine needLoaded_withOutcome loaded clist fun cs => ?_
  split
  · exact raise_withOutcome ..
  · rfl

theorem cmdCtFind_withOutcome (loaded : b.loaded = u.loaded) (clist : b.clist = u.clist)
    (ibuf : b.ibuf = u.ibuf) :
    cmdCtFind u = (cmdCtFind b).withOutcome { wch := true, res := true } u := by
  simp only [cmdCtFind, inputBytes, ibuf]
  refine needLoaded_withOutcome loaded clist fun cs => ?_
  split
  · exact raise_withOutcome ..
  · rfl

end

/-- R85, both columns: on blocks that agree on a command's "r" fields it has the same outcome in its "w"
fields. -/
theorem blockExec_withOutcome (i : Instr) {s u : State} (h : AgreeOn (readsOf i) s u) :
    Block.exec s.caps i u.toBlock =
      (Block.exec s.caps i s.toBlock).withOutcome (writesOf i) u.toBlock := by
  obtain ⟨crcr, wtc, wch, clist, loaded, ibuf, -⟩ := h
  cases i
  case crcInit => rfl
  case crcUpdb v => simp only [Block.exec, cmdCrcUpdb, crcr rfl]; rfl
  case crcFinal => simp only [Block.exec, cmdCrcFinal, crcr rfl]; rfl
  case crcCalc => simp only [Block.exec, cmdCrcCalc, inputBytes, ibuf rfl]; rfl
  case tcFrombytes v => exact setWtcChecked_withOutcome ..
  case tcFromtext => exact cmdTcFromtext_withOutcome (ibuf rfl)
  case tcRaw => exact needWtc_withOutcome (wtc rfl) fun _ => rfl
  case tcTotext => exact needWtc_withOutcome (wtc rfl) fun _ => emit_withOutcome ..
  case tcIscrit => exact wtcProperty_withOutcome (wtc rfl) _
  case tcIspub => exact wtcProperty_withOutcome (wtc rfl) _
  case tcIsrsv => exact wtcProperty_withOutcome (wtc rfl) _
  case tcIssafe => exact wtcProperty_withOutcome (wtc rfl) _
  case tcIsvalid => exact wtcProperty_withOutcome (wtc rfl) _
  case chEncode => exact cmdChEncode_withOutcome (wtc rfl) (ibuf rfl)
  case chDecode off => exact cmdChDecode_withOutcome off (ibuf rfl)
  case chSerialize => exact needWch_withOutcome (wch rfl) fun _ => emit_withOutcome ..
  case chAstext =>
    exact needWch_withOutcome (wch rfl) fun _ =>
      ite_withOutcome (emit_withOutcome ..) (raise_withOutcome ..)
  case chLength => exact needWch_withOutcome (wch rfl) fun _ => rfl
  case chType => exact needWch_withOutcome (wch rfl) fun _ => rfl
  case chData => exact needWch_withOutcome (wch rfl) fun _ => emit_withOutcome ..
  case chCrc => exact needWch_withOutcome (wch rfl) fun _ => rfl
  case ctParse => exact cmdCtParse_withOutcome _ (ibuf rfl)
  case ctAppend =>
    exact needWch_withOutcome (wch rfl) fun _ =>
      needLoaded_withOutcome (loaded rfl) (clist rfl) fun _ =>
        ite_withOutcome rfl (refuse_withOutcome ..)
  case ctRemove => exact cmdCtRemove_withOutcome (loaded rfl) (clist rfl) (ibuf rfl)
  case ctFind => exact cmdCtFind_withOutcome (loaded rfl) (clist rfl) (ibuf rfl)
  case ctSerialize =>
    exact needLoaded_withOutcome (loaded rfl) (clist rfl) fun _ => emit_withOutcome ..
  case ctDescribe =>
    exact needLoaded_withOutcome (loaded rfl) (clist rfl) fun cs =>
      emit_withOutcome s.caps (describeText cs).length (describeText cs)

/-- Settles O15: the rule of each command, on the whole states. -/
theorem unreadFieldsDoNotMatter : Obligations.UnreadFieldsDoNotMatter := by
  intro i s u t agree ht
  obtain rfl := Host.Outcome.next.inj ((exec_eq i s).symm.trans ht)
  rw [withOutcome_eq]
  refine exec_eq_of_block_eq ?_
  rw [← agree.caps]
  exact blockExec_withOutcome i agree

/-- A next state is its own outcome on the state before it. -/
theorem eq_withOutcome_of_exec {i : Instr} {s t : State} (ht : exec i s = .next t) :
    t = withOutcome (writesOf i) t s :=
  have agree : AgreeOn (readsOf i) s s :=
    ⟨fun _ => rfl, fun _ => rfl, fun _ => rfl, fun _ => rfl, fun _ => rfl, fun _ => rfl, rfl⟩
  Host.Outcome.next.inj (ht.symm.trans (unreadFieldsDoNotMatter i s s t agree ht))

/-- Settles O13: the outcome of a run that does not end OK is its STATUS. -/
theorem nonOkOutcomeChangesOnlyStatus : Obligations.NonOkOutcomeChangesOnlyStatus := by
  intro i s t ht bad
  have outcome := eq_withOutcome_of_exec ht
  rwa [withOutcome, if_neg bad] at outcome

/-- An outcome put on a state changes STATUS and the fields of its column alone. -/
theorem changesOnly_withOutcome (w : Writes) (t s : State) : ChangesOnly w s (withOutcome w t s) := by
  unfold withOutcome
  split
  · constructor <;> simp +contextual
  · constructor <;> simp

/-- Settles O14: a next state is an outcome put on the state before it. -/
theorem okOutcomeWritesOnlyItsColumns : Obligations.OkOutcomeWritesOnlyItsColumns := by
  intro i s t ht
  rw [eq_withOutcome_of_exec ht]
  exact changesOnly_withOutcome ..

/-- A state with its own outcome is itself. -/
theorem withOutcome_self (w : Writes) (t : State) : withOutcome w t t = t := by
  unfold withOutcome
  split
  case isTrue ok => simp only [ite_self, ← ok]
  case isFalse => rfl

/-- R55 in the table of R85: the commands that read only mark no field both "r" and "w". -/
theorem unmarked_of_readsOnly : ∀ i ∈ readsOnly,
    ((readsOf i).crcr = true → (writesOf i).crcr = false) ∧
    ((readsOf i).wtc = true → (writesOf i).wtc = false) ∧
    ((readsOf i).wch = true → (writesOf i).wch = false) ∧
    ((readsOf i).clist = true → (writesOf i).clist = false ∧ (writesOf i).loaded = false) := by
  decide

/-- A command that reads only finds the fields it reads again in the state it left. -/
theorem agreeOn_of_exec_readsOnly {i : Instr} {s t : State} (hi : i ∈ readsOnly)
    (ht : exec i s = .next t) : AgreeOn (readsOf i) s t := by
  obtain ⟨crcr, wtc, wch, clist⟩ := unmarked_of_readsOnly i hi
  have frame := okOutcomeWritesOnlyItsColumns i s t ht
  exact {
    crcr := fun read => (frame.crcr (crcr read)).symm
    wtc := fun read => (frame.wtc (wtc read)).symm
    wch := fun read => (frame.wch (wch read)).symm
    clist := fun read => (frame.clist (clist read).1).symm
    loaded := fun read => (frame.loaded (clist read).2).symm
    ibuf := fun _ => frame.ibuf.symm
    caps := frame.caps.symm }

/-- Settles O16: the second run reads what the first read, and its outcome stands there already. -/
theorem readingTwiceGivesTheSame : Obligations.ReadingTwiceGivesTheSame := by
  intro i hi s t ht
  have again := unreadFieldsDoNotMatter i s t t (agreeOn_of_exec_readsOnly hi ht) ht
  rwa [withOutcome_self] at again

/-- LOADED stands in one "w" column (R85). -/
theorem writesOf_loaded_of_ne {i : Instr} (h : i ≠ .ctParse) : (writesOf i).loaded = false := by
  cases i
  case ctParse => exact absurd rfl h
  all_goals rfl

/-- Settles O18: LOADED stands in the "w" column of CT.PARSE alone, which writes 1 when it ends OK and
nothing but STATUS when it does not. -/
theorem onlyParseSetsLoaded : Obligations.OnlyParseSetsLoaded := by
  intro i s t ht
  by_cases parsed : i = .ctParse ∧ t.status = 0x00
  · obtain ⟨rfl, ok⟩ := parsed
    obtain ⟨cs, -, rfl⟩ := of_exec_ctParse_ok ht ok
    exact ⟨fun _ => rfl, fun _ => ⟨fun _ => ⟨rfl, ok⟩, fun _ => rfl⟩⟩
  · have kept : t.loaded = s.loaded := by
      by_cases ok : t.status = 0x00
      · have other : i ≠ .ctParse := fun h => parsed ⟨h, ok⟩
        exact (okOutcomeWritesOnlyItsColumns i s t ht).loaded (writesOf_loaded_of_ne other)
      · rw [nonOkOutcomeChangesOnlyStatus i s t ht ok]
    rw [kept]
    exact ⟨id, fun notLoaded =>
      ⟨fun loaded => (nomatch notLoaded.symm.trans loaded), fun h => absurd h parsed⟩⟩

/-- The commands listed as reading WTC begin with it (R22). -/
theorem blockExec_of_readsWtc {i : Instr} (hi : i ∈ readsWtc) (k : Caps) (b : Block) :
    ∃ f, Block.exec k i b = needWtc b f := by
  fin_cases hi <;> exact ⟨_, rfl⟩

/-- The commands listed as reading WCH begin with it (R23). -/
theorem blockExec_of_readsWch {i : Instr} (hi : i ∈ readsWch) (k : Caps) (b : Block) :
    ∃ f, Block.exec k i b = needWch b f := by
  fin_cases hi <;> exact ⟨_, rfl⟩

/-- Settles O17: each command begins with its operands, NO_OPERAND before NOT_LOADED (R233). -/
theorem missingOperandIsRefusedFirst : Obligations.MissingOperandIsRefusedFirst := by
  refine ⟨fun i hi s invalid => ?_, fun i hi s invalid => ?_, fun i hi s notLoaded operand => ?_⟩
  · obtain ⟨f, hf⟩ := blockExec_of_readsWtc hi s.caps s.toBlock
    exact exec_of_wtc_none hf invalid
  · obtain ⟨f, hf⟩ := blockExec_of_readsWch hi s.caps s.toBlock
    exact exec_of_wch_none hf invalid
  · by_cases append : i = .ctAppend
    · subst append
      obtain ⟨c, hc⟩ := Option.ne_none_iff_exists'.1 (operand rfl)
      exact exec_ctAppend_of_not_loaded hc notLoaded
    · exact exec_of_not_loaded (by simpa [needsLoaded, append] using hi) notLoaded

end Sys2Proof.Machine
end

section
/-! How a command can end (60_exceptions.md sections 1 and 3): every STATUS byte a command can leave, with
the reason for it, one rule per shared operation. -/

namespace Sys2Proof.Machine

/-- The commands that can end with each error kind (60_exceptions.md section 1). -/
def RaisedBy (i : Instr) : ErrorKind → Prop
  | .invalidSignature => i = .ctParse
  | .truncated | .invalidLength | .crcMismatch => i = .ctParse ∨ ∃ off, i = .chDecode off
  | .invalidEncoding => (∃ w, i = .tcFrombytes w) ∨ i = .tcFromtext ∨ (∃ off, i = .chDecode off) ∨
      i = .ctParse ∨ i = .chAstext
  | .notFound => i = .ctRemove ∨ i = .ctFind

/-- The commands that test CAP_BUF, and the bytes each needs there (R7, R233). -/
inductive Produces (b : Block) : Instr → Nat → Prop
  | typeText {t : TypeCode} (h : b.wtc = some t) : Produces b .tcTotext 4
  | frame {c : ChunkRec} (h : b.wch = some c) : Produces b .chSerialize (12 + c.length.toNat)
  | text {c : ChunkRec} (h : b.wch = some c) : Produces b .chAstext c.length.toNat
  | data {c : ChunkRec} (h : b.wch = some c) : Produces b .chData c.length.toNat
  | wireForm : Produces b .ctSerialize (wireLen b.clist)
  | description : Produces b .ctDescribe (describeText b.clist).length

/-- The lists that CT.PARSE and CT.APPEND test against CAP_CHUNKS and CAP_STORE (R192, R197). -/
inductive NewList (b : Block) : Instr → List ChunkRec → Prop
  | parsed {cs : List ChunkRec} (h : parse b.ibuf = .ok cs) : NewList b .ctParse cs
  | appended (c : ChunkRec) : NewList b .ctAppend (b.clist ++ [c])

/-- The STATUS bytes command `i` can end with on block `b` under the capacities `k`, each with its
reason. -/
inductive EndsWith (k : Caps) (b : Block) (i : Instr) : Byte → Prop
  | ok : EndsWith k b i 0x00
  | raised {e : ErrorKind} (h : RaisedBy i e) : EndsWith k b i (errorByte e)
  | noWtc (hi : i ∈ readsWtc) (h : b.wtc = none) : EndsWith k b i 0x27
  | noWch (hi : i ∈ readsWch) (h : b.wch = none) : EndsWith k b i 0x27
  | notLoaded (hi : i ∈ needsLoaded) (h : b.loaded = false) : EndsWith k b i 0x37
  | bytesNotFit {n : Nat} (h : Produces b i n) (noFit : ¬ FitsBuf k n) : EndsWith k b i 0x47
  | listNotFit {cs : List ChunkRec} (h : NewList b i cs) (noFit : ¬ FitsList k cs) :
      EndsWith k b i 0x47
  | payloadTooLong (hi : i = .chEncode) (h : 0x7FFFFFFF < b.ibuf.length) : EndsWith k b i 0x57

section
variable {k : Caps} {b : Block} {i : Instr}

theorem endsWith_raise {e : ErrorKind} (h : RaisedBy i e) : EndsWith k b i (raise e b).status := by
  rw [raise_eq]
  exact .raised h

theorem endsWith_setWtcChecked (t : TypeCode) (h : RaisedBy i .invalidEncoding) :
    EndsWith k b i (setWtcChecked t b).status := by
  unfold setWtcChecked
  split
  · exact .ok
  · exact endsWith_raise h

theorem endsWith_needWtc {f : TypeCode → Block} (hi : i ∈ readsWtc)
    (h : ∀ t, b.wtc = some t → EndsWith k b i (f t).status) :
    EndsWith k b i (needWtc b f).status := by
  unfold needWtc
  split
  case h_1 invalid => exact .noWtc hi invalid
  case h_2 t valid => exact h t valid

theorem endsWith_needWch {f : ChunkRec → Block} (hi : i ∈ readsWch)
    (h : ∀ c, b.wch = some c → EndsWith k b i (f c).status) :
    EndsWith k b i (needWch b f).status := by
  unfold needWch
  split
  case h_1 invalid => exact .noWch hi invalid
  case h_2 c valid => exact h c valid

theorem endsWith_needLoaded {f : List ChunkRec → Block} (hi : i ∈ needsLoaded)
    (h : EndsWith k b i (f b.clist).status) : EndsWith k b i (needLoaded b f).status := by
  unfold needLoaded
  split
  case isTrue => exact h
  case isFalse notLoaded => exact .notLoaded hi (Bool.eq_false_iff.2 notLoaded)

theorem endsWith_emit {n : Nat} (bs : Bytes) (h : Produces b i n) :
    EndsWith k b i (emit k n bs b).status := by
  obtain ⟨fit, noFit⟩ := emit_eq k n bs b
  by_cases hn : FitsBuf k n
  · rw [fit hn]
    exact .ok
  · rw [noFit hn]
    exact .bytesNotFit h hn

theorem endsWith_fitsList {cs : List ChunkRec} (b' : Block) (h : NewList b i cs) :
    EndsWith k b i (if fitsList k cs then done b' else refuse .capacity b).status := by
  split
  case isTrue => exact .ok
  case isFalse noFit => exact .listNotFit h (mt (fitsList_iff ..).2 noFit)

end

section
variable (k : Caps) (b : Block)

theorem endsWith_tcFromtext : EndsWith k b .tcFromtext (cmdTcFromtext b).status := by
  unfold cmdTcFromtext
  split
  · exact endsWith_setWtcChecked _ (.inr (.inl rfl))
  · exact endsWith_raise (.inr (.inl rfl))

theorem endsWith_chEncode : EndsWith k b .chEncode (cmdChEncode b).status := by
  refine endsWith_needWtc (by decide) fun t _ => ?_
  split
  case isTrue long => exact .payloadTooLong rfl long
  case isFalse => exact .ok

/-- R164's error kinds are CH.DECODE's and CT.PARSE's. -/
theorem raisedBy_of_decodeAt_eq_error {buf : Bytes} {off : Nat} {e : ErrorKind} {i : Instr}
    (err : decodeAt buf off = .error e) (hi : i = .ctParse ∨ ∃ off, i = .chDecode off) :
    RaisedBy i e := by
  have kinds := mem_of_decodeAt_eq_error err
  simp only [List.mem_cons, List.not_mem_nil, or_false] at kinds
  obtain rfl | rfl | rfl | rfl := kinds
  · exact hi
  · exact hi
  · obtain parse | decode := hi
    · exact .inr (.inr (.inr (.inl parse)))
    · exact .inr (.inr (.inl decode))
  · exact hi

theorem endsWith_chDecode (off : Word) :
    EndsWith k b (.chDecode off) (cmdChDecode off b).status := by
  unfold cmdChDecode
  split
  · exact endsWith_raise (.inr ⟨off, rfl⟩)
  · split
    case h_1 err => exact endsWith_raise (raisedBy_of_decodeAt_eq_error err (.inr ⟨off, rfl⟩))
    case h_2 => exact .ok

/-- R235's error kinds: the signature's, and those of the frames. -/
theorem raisedBy_of_parseFrom_eq_error {buf : Bytes} {n cur : Nat} {e : ErrorKind}
    (err : parseFrom buf n cur = .error e) : RaisedBy .ctParse e := by
  induction n generalizing cur with
  | zero =>
    simp only [parseFrom] at err
    split_ifs at err
    cases err
    exact .inl rfl
  | succ n ih =>
    obtain inside | atEnd := Nat.lt_or_ge cur buf.length
    · cases decoded : decodeAt buf cur with
      | error e' =>
        cases err.symm.trans (parseFrom_succ_of_error n inside decoded)
        exact raisedBy_of_decodeAt_eq_error decoded (.inl rfl)
      | ok p =>
        rw [parseFrom_succ_of_ok n inside decoded] at err
        cases rest : parseFrom buf n (cur + p.2) with
        | error e' =>
          rw [rest] at err
          cases err
          exact ih rest
        | ok cs => rw [rest] at err; cases err
    · cases err.symm.trans (parseFrom_of_length_le (n + 1) atEnd)

theorem raisedBy_of_parse_eq_error {buf : Bytes} {e : ErrorKind} (err : parse buf = .error e) :
    RaisedBy .ctParse e := by
  unfold parse at err
  split_ifs at err
  · exact raisedBy_of_parseFrom_eq_error err
  · cases err
    rfl

theorem endsWith_ctParse : EndsWith k b .ctParse (cmdCtParse k b).status := by
  unfold cmdCtParse
  split
  case h_1 err => exact endsWith_raise (raisedBy_of_parse_eq_error err)
  case h_2 parsed => exact endsWith_fitsList _ (.parsed parsed)

theorem endsWith_ctRemove : EndsWith k b .ctRemove (cmdCtRemove b).status := by
  refine endsWith_needLoaded (by decide) ?_
  split
  · exact endsWith_raise (.inl rfl)
  · exact .ok

theorem endsWith_ctFind : EndsWith k b .ctFind (cmdCtFind b).status := by
  refine endsWith_needLoaded (by decide) ?_
  split
  · exact endsWith_raise (.inr rfl)
  · exact .ok

theorem endsWith_chAstext : EndsWith k b .chAstext (cmdChAstext k b).status := by
  refine endsWith_needWch (by decide) fun c valid => ?_
  split
  · exact endsWith_emit _ (.text valid)
  · exact endsWith_raise (.inr (.inr (.inr (.inr rfl))))

/-- The STATUS a command leaves has one of the reasons. -/
theorem endsWith_blockExec (i : Instr) : EndsWith k b i (Block.exec k i b).status := by
  cases i
  case crcInit => exact .ok
  case crcUpdb v => exact .ok
  case crcFinal => exact .ok
  case crcCalc => exact .ok
  case tcFrombytes v => exact endsWith_setWtcChecked _ (.inl ⟨v, rfl⟩)
  case tcFromtext => exact endsWith_tcFromtext k b
  case tcRaw => exact endsWith_needWtc (by decide) fun _ _ => .ok
  case tcTotext => exact endsWith_needWtc (by decide) fun _ valid => endsWith_emit _ (.typeText valid)
  case tcIscrit => exact endsWith_needWtc (by decide) fun _ _ => .ok
  case tcIspub => exact endsWith_needWtc (by decide) fun _ _ => .ok
  case tcIsrsv => exact endsWith_needWtc (by decide) fun _ _ => .ok
  case tcIssafe => exact endsWith_needWtc (by decide) fun _ _ => .ok
  case tcIsvalid => exact endsWith_needWtc (by decide) fun _ _ => .ok
  case chEncode => exact endsWith_chEncode k b
  case chDecode off => exact endsWith_chDecode k b off
  case chSerialize => exact endsWith_needWch (by decide) fun _ valid => endsWith_emit _ (.frame valid)
  case chAstext => exact endsWith_chAstext k b
  case chLength => exact endsWith_needWch (by decide) fun _ _ => .ok
  case chType => exact endsWith_needWch (by decide) fun _ _ => .ok
  case chData => exact endsWith_needWch (by decide) fun _ valid => endsWith_emit _ (.data valid)
  case chCrc => exact endsWith_needWch (by decide) fun _ _ => .ok
  case ctParse => exact endsWith_ctParse k b
  case ctAppend =>
    exact endsWith_needWch (by decide) fun c _ =>
      endsWith_needLoaded (by decide) (endsWith_fitsList _ (.appended c))
  case ctRemove => exact endsWith_ctRemove k b
  case ctFind => exact endsWith_ctFind k b
  case ctSerialize => exact endsWith_needLoaded (by decide) (endsWith_emit _ .wireForm)
  case ctDescribe => exact endsWith_needLoaded (by decide) (endsWith_emit _ .description)

end

/-- The STATUS of a next state has one of the reasons. -/
theorem endsWith_of_exec {i : Instr} {s t : State} (ht : exec i s = .next t) :
    EndsWith s.caps s.toBlock i t.status := by
  cases ht.symm.trans (exec_eq i s)
  exact endsWith_blockExec ..

theorem errorByte_mem_legalStatus (k : ErrorKind) : errorByte k ∈ legalStatus := by
  cases k <;> decide

theorem refusedByte_mem_legalStatus (r : RefuseReason) : refusedByte r ∈ legalStatus := by
  cases r <;> decide

theorem EndsWith.mem_legalStatus {k : Caps} {b : Block} {i : Instr} {st : Byte}
    (h : EndsWith k b i st) : st ∈ legalStatus := by
  cases h with
  | raised => exact errorByte_mem_legalStatus _
  | _ => decide

/-- CAPACITY has its two reasons only. -/
theorem EndsWith.capacity {k : Caps} {b : Block} {i : Instr} {st : Byte}
    (h : EndsWith k b i st) (capacity : st = 0x47) :
    (∃ n, Produces b i n ∧ ¬ FitsBuf k n) ∨ ∃ cs, NewList b i cs ∧ ¬ FitsList k cs := by
  cases h with
  | bytesNotFit produces noFit => exact .inl ⟨_, produces, noFit⟩
  | listNotFit list noFit => exact .inr ⟨_, list, noFit⟩
  | @raised e => cases e <;> cases capacity
  | _ => cases capacity

/-- The block's step leaves a listed STATUS byte (R25, R86, R90). -/
theorem blockStep_status_mem (k : Caps) (w : CmdWord) (b : Block) :
    (Block.step k w b).status ∈ legalStatus := by
  cases decoded : decode w with
  | error e =>
    rw [blockStep_of_decode_error decoded]
    simp [legalStatus]
  | ok i =>
    rw [blockStep_of_decode_ok decoded]
    exact (endsWith_blockExec k b i).mem_legalStatus

/-- Settles O11: the byte of an undefined word, or one that a command can end with. -/
theorem statusIsAlwaysAListedByte : Obligations.StatusIsAlwaysAListedByte := by
  intro w s t ht
  cases ht.symm.trans (runCmd_eq w s)
  exact blockStep_status_mem ..

/-- The bytes of a type code fit the least CAP_BUF of R7. -/
theorem fitsBuf_of_wf {k : Caps} (h : k.wf = true) {n : Nat} (hn : n ≤ 12) : FitsBuf k n := by
  intro m hm
  simp only [Caps.wf, hm, Bool.and_eq_true, decide_eq_true_eq] at h
  exact hn.trans h.1

/-- Settles O45: a payload fits CAP_BUF by the invariant, and a type code by the least CAP_BUF of R7. -/
theorem viewsOfAChunkAlwaysFit : Obligations.ViewsOfAChunkAlwaysFit := by
  intro s t i inv hi ht capacity
  have payload : ∀ c, s.wch = some c → FitsBuf s.caps c.length.toNat := fun c hc =>
    (inv.wchOk c hc).lengthIsData ▸ inv.wchFits c hc
  obtain ⟨n, produces, noFit⟩ | ⟨cs, list, -⟩ := (endsWith_of_exec ht).capacity capacity
  · cases produces with
    | typeText => exact noFit (fitsBuf_of_wf inv.capsOk (by decide))
    | text hc => exact noFit (payload _ hc)
    | data hc => exact noFit (payload _ hc)
    | _ => simp at hi
  · cases list <;> simp at hi

/-- Settles O12: the reason of each STATUS byte. -/
theorem outcomesComeFromTheirCommands : Obligations.OutcomesComeFromTheirCommands := by
  intro i s t ht
  have ending := endsWith_of_exec ht
  generalize t.status = st at ending
  cases ending with
  | ok => simp
  | @raised e h => cases e <;> simpa [errorByte, RaisedBy] using h
  | noWtc hi h => simp [hi, h]
  | noWch hi h => simp [hi, h]
  | notLoaded hi h => simp [hi, h]
  | bytesNotFit h => cases h <;> simp
  | listNotFit h => cases h <;> simp
  | payloadTooLong hi h => simp [hi, h]

/-- Each chunk takes 12 bytes or more of the serialized form (R196). -/
theorem twelve_mul_length_lt_serializedLength (cs : List ChunkRec) :
    12 * cs.length < serializedLength cs := by
  rw [← wireLen_eq]
  induction cs with
  | nil => decide
  | cons c cs ih =>
    simp only [List.length_cons, wireLen, frameLen, frameOverhead]
    omega

/-- A list that CT.PARSE or CT.APPEND tests is short where list and input are (R192, R197). -/
theorem length_le_of_newList {b : Block} {i : Instr} {cs : List ChunkRec} {n : Nat}
    (h : NewList b i cs) (list : b.clist.length < n) (input : b.ibuf.length < 12 * n) :
    cs.length ≤ n := by
  cases h with
  | parsed ok =>
    obtain ⟨bytes, sound⟩ := (parse_eq_ok_iff ..).1 ok
    have frames := twelve_mul_length_lt_serializedLength cs
    rw [bytes, wire_length sound] at input
    omega
  | appended c =>
    rw [List.length_append]
    exact list

/-- Settles O19: everything fits unbounded buffers, and the lists tested are short enough. -/
theorem unboundedCapacitiesNeverRefuse : Obligations.UnboundedCapacitiesNeverRefuse := by
  intro i s t buf store list input ht capacity
  obtain ⟨n, -, noFit⟩ | ⟨cs, new, noFit⟩ := (endsWith_of_exec ht).capacity capacity
  · exact noFit fun m hm => (nomatch buf.symm.trans hm)
  · exact noFit ⟨length_le_of_newList new list input, fun m hm => (nomatch store.symm.trans hm)⟩

end Sys2Proof.Machine
end

section
/-! The invariant (10_state.md section 7) as one of the block under its capacities: one rule per write of
the block, then one per command. -/

namespace Sys2Proof.Machine

/-- A chunk that can stand in WCH or CLIST: R34, and the payload within CAP_BUF (95_test_vectors.md
V4). -/
structure ChunkHeld (k : Caps) (c : ChunkRec) : Prop where
  sound : ChunkOk c
  fits : FitsBuf k c.data.length

/-- A list that can stand in CLIST (R34, R35). -/
structure ListHeld (k : Caps) (cs : List ChunkRec) : Prop where
  chunks : ∀ c ∈ cs, ChunkHeld k c
  fits : FitsList k cs

/-- `Inv` without the capacities' own constraints, as a predicate of the block. -/
structure BlockInv (k : Caps) (b : Block) : Prop where
  wtc : ∀ t, b.wtc = some t → TypeOk t
  wch : ∀ c, b.wch = some c → ChunkHeld k c
  clist : ListHeld k b.clist
  emptyUntilLoaded : b.loaded = false → b.clist = []
  ibuf : FitsBuf k b.ibuf.length
  obuf : FitsBuf k b.obuf.length
  status : b.status ∈ legalStatus

theorem inv_iff_blockInv (s : State) : Inv s ↔ s.caps.wf = true ∧ BlockInv s.caps s.toBlock := by
  constructor
  · intro h
    exact ⟨h.capsOk, {
      wtc := h.wtcLetters
      wch := fun c hc => ⟨h.wchOk c hc, h.wchFits c hc⟩
      clist := ⟨fun c hc => ⟨h.clistOk c hc, h.clistFits c hc⟩, h.listFits⟩
      emptyUntilLoaded := h.emptyUntilLoaded
      ibuf := h.ibufFits
      obuf := h.obufFits
      status := h.statusLegal }⟩
  · rintro ⟨capsOk, h⟩
    exact {
      capsOk
      wtcLetters := h.wtc
      wchOk := fun c hc => (h.wch c hc).sound
      wchFits := fun c hc => (h.wch c hc).fits
      clistOk := fun c hc => (h.clist.chunks c hc).sound
      clistFits := fun c hc => (h.clist.chunks c hc).fits
      emptyUntilLoaded := h.emptyUntilLoaded
      listFits := h.clist.fits
      ibufFits := h.ibuf
      obufFits := h.obuf
      statusLegal := h.status }

theorem FitsBuf.mono {k : Caps} {m n : Nat} (h : FitsBuf k n) (le : m ≤ n) : FitsBuf k m :=
  fun j hj => le.trans (h j hj)

theorem fitsList_nil (k : Caps) : FitsList k [] := ⟨Nat.zero_le _, fun _ _ => Nat.zero_le _⟩

theorem listHeld_nil (k : Caps) : ListHeld k [] := ⟨List.forall_mem_nil _, fitsList_nil k⟩

/-- R35: a list from which chunks are taken still fits. -/
theorem FitsList.sublist {k : Caps} {cs ds : List ChunkRec} (h : FitsList k ds)
    (sub : cs.Sublist ds) : FitsList k cs := by
  obtain ⟨count, payload⟩ := h
  refine ⟨sub.length_le.trans count, fun m hm => le_trans ?_ (payload m hm)⟩
  exact (sub.map _).sum_le_sum fun _ _ => Nat.zero_le _

theorem ListHeld.sublist {k : Caps} {cs ds : List ChunkRec} (h : ListHeld k ds)
    (sub : cs.Sublist ds) : ListHeld k cs :=
  ⟨fun c hc => h.chunks c (sub.subset hc), h.fits.sublist sub⟩

/-- The reset block meets the invariant under any capacities. -/
theorem blockInv_reset (k : Caps) : BlockInv k Block.reset where
  wtc := nofun
  wch := nofun
  clist := listHeld_nil k
  emptyUntilLoaded := fun _ => rfl
  ibuf := fun _ _ => Nat.zero_le _
  obuf := fun _ _ => Nat.zero_le _
  status := by decide

section
variable {k : Caps} {b : Block}

theorem BlockInv.withStatus (h : BlockInv k b) {st : Byte} (hst : st ∈ legalStatus) :
    BlockInv k (b.withStatus st) :=
  { h with status := hst }

theorem BlockInv.withCrcr (h : BlockInv k b) (v : Word) : BlockInv k (b.withCrcr v) := { h with }

theorem BlockInv.withRes (h : BlockInv k b) (v : Word) : BlockInv k (b.withRes v) := { h with }

theorem BlockInv.withWtc (h : BlockInv k b) {t : TypeCode} (ht : TypeOk t) :
    BlockInv k (b.withWtc t) :=
  { h with wtc := fun _ ht' => Option.some.inj ht' ▸ ht }

theorem BlockInv.withWch (h : BlockInv k b) {c : ChunkRec} (hc : ChunkHeld k c) :
    BlockInv k (b.withWch c) :=
  { h with wch := fun _ hc' => Option.some.inj hc' ▸ hc }

theorem BlockInv.withIbuf (h : BlockInv k b) {bs : Bytes} (fit : FitsBuf k bs.length) :
    BlockInv k (b.withIbuf bs) :=
  { h with ibuf := fit }

theorem BlockInv.withObuf (h : BlockInv k b) {bs : Bytes} (fit : FitsBuf k bs.length) :
    BlockInv k (b.withObuf bs) :=
  { h with obuf := fit }

/-- A list goes into a container that is loaded. -/
theorem BlockInv.withClist (h : BlockInv k b) (loaded : b.loaded = true) {cs : List ChunkRec}
    (hcs : ListHeld k cs) : BlockInv k (b.withClist cs) :=
  { h with
    clist := hcs
    emptyUntilLoaded := fun notLoaded => (nomatch loaded.symm.trans notLoaded) }

theorem BlockInv.withClist_withLoaded (h : BlockInv k b) {cs : List ChunkRec}
    (hcs : ListHeld k cs) : BlockInv k ((b.withClist cs).withLoaded true) :=
  { h with clist := hcs, emptyUntilLoaded := nofun }

theorem BlockInv.done (h : BlockInv k b) : BlockInv k (done b) := h.withStatus (by decide)

theorem BlockInv.raise (h : BlockInv k b) (e : ErrorKind) : BlockInv k (raise e b) := by
  rw [raise_eq]
  exact h.withStatus (errorByte_mem_legalStatus e)

theorem BlockInv.refuse (h : BlockInv k b) (r : RefuseReason) : BlockInv k (refuse r b) := by
  rw [refuse_eq]
  exact h.withStatus (refusedByte_mem_legalStatus r)

theorem BlockInv.emit (h : BlockInv k b) {n : Nat} {bs : Bytes} (len : bs.length = n) :
    BlockInv k (emit k n bs b) := by
  unfold Machine.emit
  split
  case isTrue fit => exact (h.withObuf (len ▸ (fitsBuf_iff ..).1 fit)).done
  case isFalse => exact h.refuse _

theorem BlockInv.setWtcChecked (h : BlockInv k b) (t : TypeCode) :
    BlockInv k (setWtcChecked t b) := by
  unfold Machine.setWtcChecked
  split
  case isTrue letters => exact (h.withWtc ((allLetters_iff t).1 letters)).done
  case isFalse => exact h.raise _

theorem BlockInv.needWtc (h : BlockInv k b) {f : TypeCode → Block}
    (hf : ∀ t, TypeOk t → BlockInv k (f t)) : BlockInv k (needWtc b f) := by
  unfold Machine.needWtc
  split
  case h_1 => exact h.refuse _
  case h_2 t valid => exact hf t (h.wtc t valid)

theorem BlockInv.needWch (h : BlockInv k b) {f : ChunkRec → Block}
    (hf : ∀ c, ChunkHeld k c → BlockInv k (f c)) : BlockInv k (needWch b f) := by
  unfold Machine.needWch
  split
  case h_1 => exact h.refuse _
  case h_2 c valid => exact hf c (h.wch c valid)

theorem BlockInv.needLoaded (h : BlockInv k b) {f : List ChunkRec → Block}
    (hf : b.loaded = true → BlockInv k (f b.clist)) : BlockInv k (needLoaded b f) := by
  unfold Machine.needLoaded
  split
  case isTrue loaded => exact hf loaded
  case isFalse => exact h.refuse _

theorem BlockInv.wtcProperty (h : BlockInv k b) (p : TypeCode → Bool) :
    BlockInv k (wtcProperty p b) :=
  h.needWtc fun _ _ => (h.withRes _).done

theorem BlockInv.cmdTcFromtext (h : BlockInv k b) : BlockInv k (cmdTcFromtext b) := by
  unfold Machine.cmdTcFromtext
  split
  · exact h.setWtcChecked _
  · exact h.raise _

/-- R163: the payload came from IBUF. -/
theorem BlockInv.cmdChEncode (h : BlockInv k b) : BlockInv k (cmdChEncode b) := by
  refine h.needWtc fun t ht => ?_
  split
  case isTrue => exact h.refuse _
  case isFalse small => exact (h.withWch ⟨chunkOk_encodeChunk ht (Nat.not_lt.1 small), h.ibuf⟩).done

/-- R34 and V4: what decode accepts is sound, and its payload is part of the buffer. -/
theorem chunkHeld_of_decodeAt_eq_ok {buf : Bytes} {off used : Nat} {c : ChunkRec}
    (fit : FitsBuf k buf.length) (ok : decodeAt buf off = .ok (c, used)) : ChunkHeld k c := by
  obtain ⟨sound, size, -⟩ := (decodeAt_eq_ok_iff ..).1 ok
  obtain ⟨-, inside⟩ := used_of_decodeAt_eq_ok ok
  have data := sound.lengthIsData
  exact ⟨sound, fit.mono (by omega)⟩

theorem BlockInv.cmdChDecode (h : BlockInv k b) (off : Word) : BlockInv k (cmdChDecode off b) := by
  unfold Machine.cmdChDecode
  split
  · exact h.raise _
  · split
    case h_1 => exact h.raise _
    case h_2 ok => exact ((h.withWch (chunkHeld_of_decodeAt_eq_ok h.ibuf ok)).withRes _).done

theorem BlockInv.cmdChAstext (h : BlockInv k b) : BlockInv k (cmdChAstext k b) := by
  refine h.needWch fun c hc => ?_
  split
  · exact h.emit hc.sound.lengthIsData.symm
  · exact h.raise _

/-- R34 and V4: the chunks of an accepted buffer are sound, and their payloads are parts of it. -/
theorem chunkHeld_of_parse_eq_ok {buf : Bytes} {cs : List ChunkRec}
    (fit : FitsBuf k buf.length) (ok : parse buf = .ok cs) : ∀ c ∈ cs, ChunkHeld k c := by
  obtain ⟨rfl, sound⟩ := (parse_eq_ok_iff ..).1 ok
  intro c hc
  have part := (List.sublist_flatten_of_mem (List.mem_map_of_mem (f := frame) hc)).length_le
  rw [← framesOf_eq, frame_length (sound c hc).lengthIsData.symm] at part
  have data := (sound c hc).lengthIsData
  refine ⟨sound c hc, fit.mono ?_⟩
  rw [wire, List.length_append]
  omega

theorem BlockInv.cmdCtParse (h : BlockInv k b) : BlockInv k (cmdCtParse k b) := by
  unfold Machine.cmdCtParse
  split
  case h_1 => exact h.raise _
  case h_2 cs ok =>
    split
    case isTrue fit =>
      have held : ListHeld k cs := ⟨chunkHeld_of_parse_eq_ok h.ibuf ok, (fitsList_iff ..).1 fit⟩
      exact ((h.withClist_withLoaded held).withRes _).done
    case isFalse => exact h.refuse _

theorem BlockInv.cmdCtAppend (h : BlockInv k b) : BlockInv k (cmdCtAppend k b) := by
  refine h.needWch fun c hc => h.needLoaded fun loaded => ?_
  split
  case isTrue fit =>
    have chunks : ∀ d ∈ b.clist ++ [c], ChunkHeld k d :=
      List.forall_mem_append.2 ⟨h.clist.chunks, List.forall_mem_singleton.2 hc⟩
    exact ((h.withClist loaded ⟨chunks, (fitsList_iff ..).1 fit⟩).withRes _).done
  case isFalse => exact h.refuse _

theorem BlockInv.cmdCtRemove (h : BlockInv k b) : BlockInv k (cmdCtRemove b) := by
  refine h.needLoaded fun loaded => ?_
  split
  case h_1 => exact h.raise _
  case h_2 i _ _ =>
    have fewer : (b.clist.take i ++ b.clist.drop (i + 1)).Sublist b.clist :=
      List.eraseIdx_eq_take_drop_succ .. ▸ List.eraseIdx_sublist ..
    exact ((h.withClist loaded (h.clist.sublist fewer)).withRes _).done

theorem BlockInv.cmdCtFind (h : BlockInv k b) : BlockInv k (cmdCtFind b) := by
  refine h.needLoaded fun loaded => ?_
  split
  case h_1 => exact h.raise _
  case h_2 i c found =>
    obtain ⟨pre, post, list, -⟩ := (firstMatch_eq_some_iff ..).1 found
    have held : ChunkHeld k c := h.clist.chunks c (by simp [list])
    exact ((h.withWch held).withRes _).done

/-- R196: the bytes emitted are as many as the lengths of sound chunks say. -/
theorem BlockInv.cmdCtSerialize (h : BlockInv k b) : BlockInv k (cmdCtSerialize k b) := by
  have sound : ∀ c ∈ b.clist, ChunkOk c := fun c hc => (h.clist.chunks c hc).sound
  refine h.needLoaded fun _ => ?_
  exact h.emit ((wire_length sound).trans (wireLen_eq _).symm)

theorem BlockInv.cmdCtDescribe (h : BlockInv k b) : BlockInv k (cmdCtDescribe k b) := by
  refine h.needLoaded fun _ => ?_
  exact h.emit rfl

/-- Every command keeps the invariant. -/
theorem BlockInv.exec (h : BlockInv k b) (i : Instr) : BlockInv k (Block.exec k i b) := by
  cases i
  case crcInit => exact (h.withCrcr _).done
  case crcUpdb v => exact (h.withCrcr _).done
  case crcFinal => exact (h.withRes _).done
  case crcCalc => exact ((h.withCrcr _).withRes _).done
  case tcFrombytes v => exact h.setWtcChecked _
  case tcFromtext => exact h.cmdTcFromtext
  case tcRaw => exact h.needWtc fun _ _ => (h.withRes _).done
  case tcTotext => exact h.needWtc fun t _ => h.emit (typeBytes_length t)
  case tcIscrit => exact h.wtcProperty _
  case tcIspub => exact h.wtcProperty _
  case tcIsrsv => exact h.wtcProperty _
  case tcIssafe => exact h.wtcProperty _
  case tcIsvalid => exact h.wtcProperty _
  case chEncode => exact h.cmdChEncode
  case chDecode off => exact h.cmdChDecode off
  case chSerialize => exact h.needWch fun _ hc => h.emit (frame_length hc.sound.lengthIsData.symm)
  case chAstext => exact h.cmdChAstext
  case chLength => exact h.needWch fun _ _ => (h.withRes _).done
  case chType => exact h.needWch fun _ hc => ((h.withWtc hc.sound.typeLetters).withRes _).done
  case chData => exact h.needWch fun _ hc => h.emit hc.sound.lengthIsData.symm
  case chCrc => exact h.needWch fun _ _ => (h.withRes _).done
  case ctParse => exact h.cmdCtParse
  case ctAppend => exact h.cmdCtAppend
  case ctRemove => exact h.cmdCtRemove
  case ctFind => exact h.cmdCtFind
  case ctSerialize => exact h.cmdCtSerialize
  case ctDescribe => exact h.cmdCtDescribe

/-- Every host move keeps the invariant. -/
theorem BlockInv.move (h : BlockInv k b) {b' : Block} (move : BlockMove k b b') : BlockInv k b' := by
  cases move with
  | keep => exact h
  | write fit => exact h.withIbuf fit
  | reset => exact blockInv_reset k
  | command w =>
    cases decoded : decode w with
    | error e =>
      rw [blockStep_of_decode_error decoded]
      exact h.withStatus (by decide)
    | ok i =>
      rw [blockStep_of_decode_ok decoded]
      exact h.exec i

end

/-- Settles O57: the reset block, under R7's unbounded setting. -/
theorem resetMeetsTheInvariant : Obligations.ResetMeetsTheInvariant :=
  (inv_iff_blockInv _).2 ⟨by decide, blockInv_reset _⟩

/-- Settles O58: a step keeps the capacities, and its move keeps the block's invariant under them. -/
theorem everyStepKeepsTheInvariant : Obligations.EveryStepKeepsTheInvariant := by
  intro s t inv ht
  obtain ⟨capsOk, h⟩ := (inv_iff_blockInv s).1 inv
  obtain ⟨-, -, -, -, fault⟩ | ⟨t', next, caps, move⟩ := step_cases s
  · cases fault.symm.trans ht
  · cases next.symm.trans ht
    rw [inv_iff_blockInv, caps]
    exact ⟨capsOk, h.move move⟩

end Sys2Proof.Machine
end

section
/-! A changed byte changes the checksum (R131): a bit step loses nothing, since it is linear and only 0
goes to 0; so neither does the fold of the bytes that follow. -/

namespace Sys2Proof.Machine

/-- A bit step takes only 0 to 0: the polynomial's bit 31 stays where it was XORed in. -/
theorem eq_zero_of_bitStep_eq_zero {c : Word} (h : bitStep c = 0) : c = 0 := by
  have shifted : (c >>> 1).toNat = c.toNat / 2 := by
    rw [BitVec.toNat_ushiftRight, Nat.shiftRight_eq_div_pow, Nat.pow_one]
  have low : c.getLsbD 0 = decide (c.toNat % 2 = 1) := by
    rw [BitVec.getLsbD, Nat.testBit_zero]
  unfold bitStep at h
  split_ifs at h with out
  · have upper := congrArg BitVec.toNat (BitVec.xor_eq_zero_iff.1 h)
    rw [shifted, show poly.toNat = 0xEDB88320 from rfl] at upper
    omega
  · have upper : c.toNat / 2 = 0 := shifted.symm.trans (congrArg BitVec.toNat h)
    rw [low, decide_eq_true_eq] at out
    exact BitVec.eq_of_toNat_eq (show c.toNat = 0 by omega)

theorem bitStep_injective : Function.Injective bitStep := by
  intro a b h
  rw [← BitVec.xor_eq_zero_iff] at h ⊢
  exact eq_zero_of_bitStep_eq_zero ((bitStep_xor a b).trans h)

theorem bitSteps_injective (n : Nat) : Function.Injective (bitSteps n) := by
  induction n with
  | zero => exact Function.injective_id
  | succ n ih => exact ih.comp bitStep_injective

/-- The byte step tells registers apart. -/
theorem crcByte_left_injective (b : Byte) : Function.Injective (crcByte · b) :=
  (bitSteps_injective 8).comp fun _ _ => (BitVec.xor_left_inj _).1

/-- The byte step tells bytes apart. -/
theorem crcByte_right_injective (c : Word) : Function.Injective (crcByte c) := by
  refine (bitSteps_injective 8).comp fun b b' h => ?_
  have widened := congrArg BitVec.toNat ((BitVec.xor_right_inj _).1 h)
  simp only [BitVec.toNat_setWidth] at widened
  exact BitVec.eq_of_toNat_eq (by omega)

/-- The fold of any bytes tells registers apart. -/
theorem crcRun_left_injective (m : Bytes) : Function.Injective (crcRun · m) := by
  induction m with
  | nil => exact Function.injective_id
  | cons b m ih => exact ih.comp (crcByte_left_injective b)

/-- `m'` is `m` with byte `k`, a byte of `m`, replaced by another. -/
def ChangesOneByte (m m' : Bytes) (k : Nat) : Prop :=
  ∃ b x : Byte, m[k]? = some b ∧ x ≠ b ∧ m' = m.set k x

theorem FlipsOneBit.changesOneByte {m m' : Bytes} {k : Nat} (h : FlipsOneBit m m' k) :
    ChangesOneByte m m' k := by
  obtain ⟨b, j, hj, hb, rfl⟩ := h
  refine ⟨b, b ^^^ BitVec.twoPow 8 j, hb, fun same => ?_, rfl⟩
  have bit := congrArg (BitVec.getLsbD · j) same
  simp [hj] at bit

/-- R131, for any change of one byte: the registers differ behind that byte, and stay different. -/
theorem crc32_ne_of_changesOneByte {m m' : Bytes} {k : Nat} (h : ChangesOneByte m m' k) :
    crc32 m' ≠ crc32 m := by
  obtain ⟨b, x, hb, differs, rfl⟩ := h
  obtain ⟨inside, rfl⟩ := List.getElem?_eq_some_iff.1 hb
  obtain ⟨pre, post, before, -, after⟩ := List.exists_of_set (a' := x) inside
  intro same
  have registers := (BitVec.xor_left_inj _).1 same
  rw [after, before, crcRun_append, crcRun_append] at registers
  exact differs (crcByte_right_injective _ (crcRun_left_injective post registers))

/-- Settles O27: an inverted bit is a changed byte. -/
theorem oneBitFlipChangesTheChecksum : Obligations.OneBitFlipChangesTheChecksum :=
  fun _ _ _ flip => crc32_ne_of_changesOneByte flip.changesOneByte

end Sys2Proof.Machine
end

section
/-! Case and bit 5 (R146): 0x41 to 0x5A have it 0, 0x61 to 0x7A have it 1. -/

namespace Sys2Proof.Machine

theorem isUpper_eq_not_bitFive {b : Byte} (h : AsciiLetter b) : isUpper b = !b.getLsbD 5 := by
  have bit : b.getLsbD 5 = decide (b.toNat / 2 ^ 5 % 2 = 1) := Nat.testBit_eq_decide_div_mod_eq
  rw [Bool.eq_iff_iff, isUpper_iff, bit, Bool.not_eq_true', decide_eq_false_iff_not]
  omega

/-- Settles O32: the case of each byte, negated for safe-to-copy. -/
theorem propertiesOfLettersAreBitFive : Obligations.PropertiesOfLettersAreBitFive := by
  rintro t ⟨h0, h1, h2, h3⟩
  refine ⟨isUpper_eq_not_bitFive h0, isUpper_eq_not_bitFive h1, isUpper_eq_not_bitFive h2, ?_, rfl⟩
  rw [isSafeToCopy, isUpper_eq_not_bitFive h3, Bool.not_not]

end Sys2Proof.Machine
end

section
/-! The framer's tier 2 obligations: buffers that end too early (R176), tampered frames (R175), and the
round trip of a chunk through the commands (95_test_vectors.md S4). -/

namespace Sys2Proof.Machine

/-- A bounded read does not see the bytes past its end. -/
theorem memRead_take_append {buf d : Bytes} {addr n : Nat} (h : memRead buf addr n = some d) (z : Bytes) :
    memRead (buf.take (addr + n) ++ z) addr n = some d := by
  obtain ⟨inside, rfl⟩ := (memRead_eq_some_iff ..).1 h
  rw [List.take_add, List.append_assoc]
  exact memRead_append _ _ z _ _ (List.length_take_of_le (by omega))
    (memRead_length _ _ _ _ h)

/-- Settles O38: a frame that decode reads whole takes 12 bytes and its payload; where the buffer ends
before that, an earlier step has failed. -/
theorem shortBuffersGiveLengthErrors : Obligations.ShortBuffersGiveLengthErrors := by
  refine ⟨fun buf off _ short => ?_, fun pre body len short => ?_, fun buf z off c used ok => ?_⟩
  · obtain lengthError | ⟨c, -, -, read⟩ := decodeAt_lengthError_or_frame buf off
    · exact lengthError
    · have inside := ((memRead_eq_some_iff ..).1 read).1
      omega
  · have length := readLength_be32 pre body len
    rw [List.append_assoc]
    split
    case isTrue big => exact decodeAt_of_length_gt length big
    case isFalse small =>
      refine decodeAt_of_readBody_none length (Nat.not_lt.1 small) (readBody_eq_none ?_)
      simp only [List.length_append, be32_length]
      omega
  · obtain ⟨sound, size, read⟩ := (decodeAt_eq_ok_iff ..).1 ok
    exact (decodeAt_eq_ok_iff ..).2 ⟨sound, size, memRead_take_append read z⟩

section
variable {a b f : Bytes} {k : Nat}

theorem ChangesOneByte.length_eq (h : ChangesOneByte a f k) : f.length = a.length := by
  obtain ⟨_, _, _, _, rfl⟩ := h
  exact List.length_set

theorem ChangesOneByte.ne (h : ChangesOneByte a f k) : f ≠ a := by
  obtain ⟨y, x, hy, differs, rfl⟩ := h
  obtain ⟨inside, -⟩ := List.getElem?_eq_some_iff.1 hy
  intro same
  have byte := congrArg (·[k]?) same
  simp only [List.getElem?_set_self inside, hy, Option.some_inj] at byte
  exact differs byte

theorem ChangesOneByte.append (h : ChangesOneByte a f k) (b : Bytes) :
    ChangesOneByte (a ++ b) (f ++ b) k := by
  obtain ⟨y, x, hy, differs, rfl⟩ := h
  obtain ⟨inside, -⟩ := List.getElem?_eq_some_iff.1 hy
  exact ⟨y, x, by rw [List.getElem?_append_left inside, hy], differs,
    (List.set_append_left k x inside).symm⟩

theorem ChangesOneByte.prepend (h : ChangesOneByte b f k) (a : Bytes) :
    ChangesOneByte (a ++ b) (a ++ f) (a.length + k) := by
  obtain ⟨y, x, hy, differs, rfl⟩ := h
  refine ⟨y, x, ?_, differs, ?_⟩
  · rw [List.getElem?_append_right (by omega), Nat.add_sub_cancel_left, hy]
  · rw [List.set_append_right _ x (by omega), Nat.add_sub_cancel_left]

/-- A changed byte of two parts is one of the first or one of the second. -/
theorem changesOneByte_append (h : ChangesOneByte (a ++ b) f k) :
    (k < a.length ∧ ∃ a', ChangesOneByte a a' k ∧ f = a' ++ b) ∨
    (a.length ≤ k ∧ ∃ b', ChangesOneByte b b' (k - a.length) ∧ f = a ++ b') := by
  obtain ⟨y, x, hy, differs, rfl⟩ := h
  obtain inside | outside := Nat.lt_or_ge k a.length
  · rw [List.getElem?_append_left inside] at hy
    exact .inl ⟨inside, _, ⟨y, x, hy, differs, rfl⟩, List.set_append_left k x inside⟩
  · rw [List.getElem?_append_right outside] at hy
    exact .inr ⟨outside, _, ⟨y, x, hy, differs, rfl⟩, List.set_append_right k x outside⟩

end

theorem exists_eq_typeBytes {bs : Bytes} (h : bs.length = 4) : ∃ t, bs = typeBytes t := by
  match bs, h with
  | [b0, b1, b2, b3], _ => exact ⟨⟨b0, b1, b2, b3⟩, rfl⟩

theorem exists_eq_be32 {bs : Bytes} (h : bs.length = 4) : ∃ v, bs = be32 v := by
  match bs, h with
  | [b0, b1, b2, b3], _ => exact ⟨fromBe32 b0 b1 b2 b3, (be32_fromBe32 ..).symm⟩

/-- A type code with one byte changed is a type code of letters exactly when the new byte is one. -/
theorem typeOk_iff_of_changesOneByte {t t' : TypeCode} {k : Nat} (ht : TypeOk t)
    (h : ChangesOneByte (typeBytes t) (typeBytes t') k) {x : Byte} (hx : (typeBytes t')[k]? = some x) :
    TypeOk t' ↔ AsciiLetter x := by
  rw [typeOk_iff_forall_mem] at ht ⊢
  obtain ⟨y, x', hy, -, same⟩ := h
  obtain ⟨inside, -⟩ := List.getElem?_eq_some_iff.1 hy
  obtain rfl : x' = x := by
    rw [same, List.getElem?_set_self inside] at hx
    exact Option.some.inj hx
  refine ⟨fun letters => letters x' (List.mem_of_getElem? hx), fun letter b hb => ?_⟩
  rw [same] at hb
  obtain old | rfl := List.mem_or_eq_of_mem_set hb
  · exact ht b old
  · exact letter

/-- R164 steps 6 and 7 on a frame with a wrong checksum. -/
theorem decodeAt_frame_of_crc_ne {c : ChunkRec} (hd : c.data.length = c.length.toNat)
    (small : c.length.toNat ≤ 0x7FFFFFFF) (bad : crc32 (typeBytes c.type ++ c.data) ≠ c.crc) :
    (TypeOk c.type → decodeAt (frame c) 0 = .error .crcMismatch) ∧
    (¬ TypeOk c.type → decodeAt (frame c) 0 = .error .invalidEncoding) := by
  have read := memRead_frame hd [] []
  rw [List.nil_append, List.append_nil, List.length_nil] at read
  rw [decodeAt_of_memRead_frame hd small read]
  exact ⟨fun letters => (if_neg (not_not.2 letters)).trans (if_pos bad), fun other => if_pos other⟩

/-- A frame's parts, one behind the other (R161). -/
theorem frame_eq_append (c : ChunkRec) :
    frame c = be32 c.length ++ (typeBytes c.type ++ (c.data ++ be32 c.crc)) := by
  simp only [frame, List.append_assoc]

/-- Bytes 4 to 7 of a frame are its type's. -/
theorem frame_getElem?_type (c : ChunkRec) {k : Nat} (behind : 4 ≤ k) (early : k < 8) :
    (frame c)[k]? = (typeBytes c.type)[k - 4]? := by
  have inType : k - 4 < (typeBytes c.type).length := by
    rw [typeBytes_length]
    omega
  rw [frame_eq_append, List.getElem?_append_right behind, be32_length,
    List.getElem?_append_left inType]

/-- A sound chunk's frame with a byte changed behind the length field is the frame of a chunk with a
wrong checksum: the changed byte is under the checksum, or in it. Its type is still the chunk's, or has that
byte changed. -/
theorem exists_frame_of_changesOneByte {c : ChunkRec} {f : Bytes} {k : Nat} (sound : ChunkOk c)
    (h : ChangesOneByte (frame c) f k) (behind : 4 ≤ k) :
    ∃ c' : ChunkRec, f = frame c' ∧ c'.length = c.length ∧ c'.data.length = c.data.length ∧
      crc32 (typeBytes c'.type ++ c'.data) ≠ c'.crc ∧ (8 ≤ k → c'.type = c.type) ∧
      (k < 8 → ChangesOneByte (typeBytes c.type) (typeBytes c'.type) (k - 4)) := by
  rw [frame_eq_append] at h
  obtain ⟨early, -⟩ | ⟨-, body, inBody, rfl⟩ := changesOneByte_append h
  · exact absurd early (Nat.not_lt.2 behind)
  obtain ⟨early, bs, inType, rfl⟩ | ⟨late, rest, inRest, rfl⟩ := changesOneByte_append inBody
  · obtain ⟨t, rfl⟩ := exists_eq_typeBytes inType.length_eq
    rw [be32_length] at early inType
    rw [typeBytes_length] at early
    refine ⟨{ c with type := t }, Eq.symm (frame_eq_append _), rfl, rfl, ?_, fun late => by omega,
      fun _ => inType⟩
    rw [sound.crcIsChecksum]
    exact crc32_ne_of_changesOneByte (inType.append c.data)
  rw [be32_length, typeBytes_length] at late
  obtain ⟨-, d, inData, rfl⟩ | ⟨-, bs, inCrc, rfl⟩ := changesOneByte_append inRest
  · refine ⟨{ c with data := d }, Eq.symm (frame_eq_append _), rfl, inData.length_eq, ?_,
      fun _ => rfl, fun early => by omega⟩
    rw [sound.crcIsChecksum]
    exact crc32_ne_of_changesOneByte (inData.prepend (typeBytes c.type))
  · obtain ⟨v, rfl⟩ := exists_eq_be32 inCrc.length_eq
    refine ⟨{ c with crc := v }, Eq.symm (frame_eq_append _), rfl, rfl, ?_, fun _ => rfl,
      fun early => by omega⟩
    rw [← sound.crcIsChecksum]
    exact fun same => inCrc.ne (congrArg be32 same.symm)

/-- Settles O39: the tampered frame is that of a chunk with a wrong checksum, and decode tests its type
first. -/
theorem tamperedFrameIsRejected : Obligations.TamperedFrameIsRejected := by
  intro c f k sound flip
  have changed := flip.changesOneByte
  refine ⟨fun late _ => ?_, fun behind early x hx => ?_⟩
  · obtain ⟨c', rfl, len, data, bad, sameType, -⟩ :=
      exists_frame_of_changesOneByte sound changed (by omega)
    rw [← sound.lengthIsData, ← len] at data
    refine (decodeAt_frame_of_crc_ne data (len ▸ sound.lengthInRange) bad).1 ?_
    rw [sameType late]
    exact sound.typeLetters
  · obtain ⟨c', rfl, len, data, bad, -, typeByte⟩ :=
      exists_frame_of_changesOneByte sound changed behind
    rw [← sound.lengthIsData, ← len] at data
    rw [frame_getElem?_type c' behind early] at hx
    rw [← typeOk_iff_of_changesOneByte sound.typeLetters (typeByte early) hx]
    exact decodeAt_frame_of_crc_ne data (len ▸ sound.lengthInRange) bad

/-- Settles O40: the chunk that encode builds is sound, so its frame fits as the statement says and
decode gives it back. -/
theorem encodeSerializeDecodeRoundTrip : Obligations.EncodeSerializeDecodeRoundTrip := by
  intro s t ht letters small fit
  have sound := chunkOk_encodeChunk letters small
  have len := encodeChunk_length t small
  rw [← len] at fit
  refine ⟨encodeChunk t s.ibuf, _, _, exec_chEncode ht small, rfl, rfl, rfl, rfl,
    (exec_of_emit (blockExec_chSerialize rfl _)).1 fit, rfl, rfl, ?_⟩
  rw [← len]
  refine exec_chDecode_of_ok (Nat.zero_le _) ?_
  simpa using decodeAt_frame sound [] []

end Sys2Proof.Machine
end
